-- ==== Sys2Proof/Word.lean ====
section
/-! DEFINITION. The widths of the block's values (00_scope.md R8): names for bit vectors, nothing else. -/

namespace Sys2Proof

/-- A byte: every interface of the block moves one (20_memory.md R59). -/
abbrev Byte := BitVec 8

/-- A memory address as it stands in the transaction word, zero-extended to the 32 bits of field A (R80, R83). -/
abbrev Addr := BitVec 32

/-- An I/O port number: 16 bits (20_memory.md R55). -/
abbrev Port := BitVec 16

/-- A transaction word: one operation (30_encoding.md R80). -/
abbrev Txn := BitVec 48

/-- An offset into the frame buffer, 0..4095 (00_scope.md R8). -/
abbrev BufferOffset := BitVec 12

/-- A cell index, 0..2047 (00_scope.md R8). -/
abbrev CellIndex := BitVec 11

/-- A visitor's answer and a traversal's result: a signed 32-bit integer of which the block only asks whether it is
0 (30_encoding.md R94); held as its two's-complement bits. -/
abbrev Status := BitVec 32

/-- An array of n entries, entry 0 first: a list that carries the proof of its length, so that it has one entry per index
by construction, and two of them are compared entry by entry. -/
structure Table (α : Type) (n : Nat) where
  entries : List α
  size : entries.length = n
  deriving DecidableEq, Repr

/-- The array whose n entries are all v. -/
def Table.fill {α : Type} (n : Nat) (v : α) : Table α n := ⟨List.replicate n v, List.length_replicate ..⟩

/-- The per-cell dirty flags: "one entry per cell" (10_state.md R23). -/
abbrev DirtyMap := Table Bool 2048

/-- The CRT register file: 256 bytes (10_state.md R30). -/
abbrev CrtFile := Table Byte 256

end Sys2Proof
end

