-- ==== Sys2Proof/Config.lean ====
section
/-! DEFINITION. What an implementation fixes (00_scope.md R5, R6): the sizes and port numbers the source gives, the two
parameters it leaves open (held in `Params`, so that one State names its own), and the free values, which have no body. -/

namespace Sys2Proof

/-- The OPEN parameters of 00_scope.md R6 that the block's operations use. They are plain data in State and no operation
writes them, so that a statement over every state is a statement over every base address and width (log 1). -/
structure Params where
  /-- BASE_ADDR: first address of the memory window (92_eei_decisions.md D1). -/
  baseAddr : Addr
  /-- ADDR_WIDTH: bits of a memory address (92_eei_decisions.md D2). -/
  addrWidth : Nat
  deriving DecidableEq, Repr

/-- What R6 and D2 ask of the parameters. DEDUCED: at most 32 bits, since field A of the word has 32 (log 1). -/
abbrev Params.legal (p : Params) : Prop :=
  12 ≤ p.addrWidth ∧ p.addrWidth ≤ 32 ∧ p.baseAddr.toNat + 32768 ≤ 2 ^ p.addrWidth

namespace Config

/-- The values every example of the spec uses: BASE_ADDR = 0xB0000, ADDR_WIDTH = 20 (R6). DESIGN CHOICE as the
parameters of State.reset (log 1). -/
def exampleParams : Params := { baseAddr := 0xB0000#32, addrWidth := 20 }

/-- MEM_WINDOW: bytes of address space the block installs (R5). -/
def memWindowBytes : Nat := 32768

/-- PORT_BASE: first port of the window (R6, R55, D3). -/
def portBase : Port := 0x3B0#16

/-- PORT_WINDOW: consecutive ports the block installs (R5). -/
def portWindowCount : Nat := 16

/-- STATUS_PORT (R5). -/
def statusPort : Port := 0x3BA#16

/-- MODE_PORT (R5). -/
def modePort : Port := 0x3B8#16

/-- DEVICE_NAME: "a fixed device name string" whose value the source does not give (42_lifecycle.md R155, D14). A free
value: nothing is known of it (log 8). -/
opaque deviceName : String

/-- The visitor's answers, where State's list of supplied answers has none left: answer number n of the machine's whole
life is `visitorAnswer n` (43_render.md R168: a draw; 93_implementation_defined.md U7). A free value (log 6). -/
opaque visitorAnswer : Nat → Status

end Config

end Sys2Proof
end

