-- ==== Sys2Proof/Syntax.lean ====
section
/-! DEFINITION. The operations of the block: one constructor per row of spec/opcode_table.json, and the reasons a
transaction word spells none of them (30_encoding.md R82). -/

namespace Sys2Proof

/-- An operation with its operands. Bits of the word that R85 calls ignored are not operands (log 18). -/
inductive Instr where
  /-- MEM_READ (40_framebuffer.md R110). -/
  | memRead (addr : Addr)
  /-- MEM_WRITE (40_framebuffer.md R111). -/
  | memWrite (addr : Addr) (value : Byte)
  /-- IN_STATUS: port 0x3BA (41_port_io.md R121). -/
  | inStatus
  /-- IN_CRTDATA: port 0x3B1 + 2n, the n-th of the four alias ports (41_port_io.md R122). -/
  | inCrtData (n : BitVec 2)
  /-- IN_OTHER: any other port (41_port_io.md R123). -/
  | inOther (port : Port)
  /-- OUT_MODE: port 0x3B8 (41_port_io.md R128). -/
  | outMode (value : Byte)
  /-- OUT_CRTDATA: port 0x3B1 + 2n (41_port_io.md R129). -/
  | outCrtData (n : BitVec 2) (value : Byte)
  /-- OUT_CRTADDR: an even port other than 0x3B8 (41_port_io.md R135). -/
  | outCrtAddr (port : Port) (value : Byte)
  /-- OUT_ODD: an odd port that is no CRT data port; the value is carried and ignored (41_port_io.md R136). -/
  | outOdd (port : Port) (value : Byte)
  /-- RESET (42_lifecycle.md R151). -/
  | reset
  /-- TRAVERSE (43_render.md R165). -/
  | traverse
  /-- INSTALL (42_lifecycle.md R150). -/
  | install
  /-- IDENTIFY (42_lifecycle.md R155). -/
  | identify
  deriving DecidableEq, Repr

/-- Why a transaction word spells no operation: the four cases of 30_encoding.md R82. -/
inductive DecodeError where
  /-- R82 (a): K in 0x8..0xF. -/
  | reservedKind (kind : BitVec 4)
  /-- R82 (b): Z != 0. -/
  | reservedField (z : BitVec 4)
  /-- R82 (c): a memory address wider than ADDR_WIDTH. -/
  | wideAddress (a : Addr)
  /-- R82 (d): a port wider than 16 bits. -/
  | widePort (a : Addr)
  deriving DecidableEq, Repr

end Sys2Proof
end

