-- ==== Sys2Proof/WellFormed.lean ====
section
/-! DEFINITION. When an operation's operands can stand in a word of its row (30_encoding.md R82, R87, R88). -/

namespace Sys2Proof

/-- The four CRT data ports (00_scope.md R5). -/
def isCrtDataPort (p : Port) : Bool :=
  p == 0x3B1#16 || p == 0x3B3#16 || p == 0x3B5#16 || p == 0x3B7#16

/-- A memory address the bus has wires for: R82 (c) does not apply. -/
def addressFits (addrWidth : Nat) (a : Addr) : Bool := decide (a.toNat < 2 ^ addrWidth)

/-- The operand is one that the operation's own row of the table admits; the other operations take every operand. -/
def Instr.wellFormed (addrWidth : Nat) : Instr → Bool
  | .memRead a => addressFits addrWidth a
  | .memWrite a _ => addressFits addrWidth a
  | .inStatus => true
  | .inCrtData _ => true
  | .inOther p => p != Config.statusPort && !isCrtDataPort p
  | .outMode _ => true
  | .outCrtData _ _ => true
  | .outCrtAddr p _ => !p.getLsbD 0 && p != Config.modePort
  | .outOdd p _ => p.getLsbD 0 && !isCrtDataPort p
  | .reset => true
  | .traverse => true
  | .install => true
  | .identify => true

end Sys2Proof
end

