-- ==== Sys2Proof/Decode.lean ====
section
/-! DEFINITION. The decoder, total on every 48-bit transaction word and refusing by name (30_encoding.md R80–R88), the
encoder beside it, the opcode table as data, and the assembler notation of R97. -/

namespace Sys2Proof

/-! ## Fields of the transaction word (R80) -/

/-- K, bits 47:44: the operation kind. -/
def kindField (t : Txn) : BitVec 4 := t.extractLsb' 44 4

/-- Z, bits 43:40: reserved, must be 0. -/
def zField (t : Txn) : BitVec 4 := t.extractLsb' 40 4

/-- A, bits 39:8: memory address or port number. -/
def aField (t : Txn) : Addr := t.extractLsb' 8 32

/-- D, bits 7:0: the data byte. -/
def dField (t : Txn) : Byte := t.extractLsb' 0 8

/-- A word from its four fields, K in the highest bits. -/
def packTxn (k z : BitVec 4) (a : Addr) (d : Byte) : Txn := k ++ z ++ a ++ d

/-! ## The decoder -/

/-- Which of the four CRT data ports a port is: its bits 2:1 (R87). -/
def crtDataAlias (p : Port) : BitVec 2 := p.extractLsb' 1 2

/-- The CRT data port of an alias number: 0x3B1 | (n << 1) (R87, opcode_table.json). -/
def crtDataPort (n : BitVec 2) : Port := 0x3B1#16 ||| (n.setWidth 16 <<< 1)

/-- R87's field test for the four CRT data ports: bits 2:1 are free, every other bit is fixed. -/
def matchesCrtData (p : Port) : Bool := p &&& 0xFFF9#16 == 0x3B1#16

/-- No bit of A at or above ADDR_WIDTH is set (R82 (c)). -/
def withinAddrWidth (addrWidth : Nat) (a : Addr) : Bool := a >>> addrWidth == 0#32

/-- The port operand, or the refusal of R82 (d) (R84). -/
def decodePort (a : Addr) : Except DecodeError Port :=
  if a.toNat < 65536 then .ok (a.setWidth 16) else .error (.widePort a)

/-- IO_IN: the rows in the order of R87. -/
def decodeIn (p : Port) : Instr :=
  if p == Config.statusPort then .inStatus
  else if matchesCrtData p then .inCrtData (crtDataAlias p)
  else .inOther p

/-- IO_OUT: the rows in the order of R88. -/
def decodeOut (p : Port) (value : Byte) : Instr :=
  if p == Config.modePort then .outMode value
  else if matchesCrtData p then .outCrtData (crtDataAlias p) value
  else if !p.getLsbD 0 then .outCrtAddr p value
  else .outOdd p value

/-- K selects the operation (R81); A and D are its operands (R83–R85). -/
def decodeKind (addrWidth : Nat) (k : BitVec 4) (a : Addr) (d : Byte) : Except DecodeError Instr :=
  match k.toNat with
  | 0 => if withinAddrWidth addrWidth a then .ok (.memRead a) else .error (.wideAddress a)
  | 1 => if withinAddrWidth addrWidth a then .ok (.memWrite a d) else .error (.wideAddress a)
  | 2 => (decodePort a).map decodeIn
  | 3 => (decodePort a).map fun p => decodeOut p d
  | 4 => .ok .reset
  | 5 => .ok .traverse
  | 6 => .ok .install
  | 7 => .ok .identify
  | _ => .error (.reservedKind k)

/-- The operation a transaction word spells (R80–R88), or which case of R82 refuses it. A word that two cases refuse is
refused under Z's name first; every case is a refusal (log 9). -/
def decode (addrWidth : Nat) (t : Txn) : Except DecodeError Instr :=
  if zField t == 0#4 then decodeKind addrWidth (kindField t) (aField t) (dField t)
  else .error (.reservedField (zField t))

/-! ## The encoder -/

/-- The word of an operation, its ignored bits 0 (R80, R81, R97). -/
def encode : Instr → Txn
  | .memRead a => packTxn 0x0#4 0#4 a 0#8
  | .memWrite a v => packTxn 0x1#4 0#4 a v
  | .inStatus => packTxn 0x2#4 0#4 0x3BA#32 0#8
  | .inCrtData n => packTxn 0x2#4 0#4 ((crtDataPort n).setWidth 32) 0#8
  | .inOther p => packTxn 0x2#4 0#4 (p.setWidth 32) 0#8
  | .outMode v => packTxn 0x3#4 0#4 0x3B8#32 v
  | .outCrtData n v => packTxn 0x3#4 0#4 ((crtDataPort n).setWidth 32) v
  | .outCrtAddr p v => packTxn 0x3#4 0#4 (p.setWidth 32) v
  | .outOdd p v => packTxn 0x3#4 0#4 (p.setWidth 32) v
  | .reset => packTxn 0x4#4 0#4 0#32 0#8
  | .traverse => packTxn 0x5#4 0#4 0#32 0#8
  | .install => packTxn 0x6#4 0#4 0#32 0#8
  | .identify => packTxn 0x7#4 0#4 0#32 0#8

/-! ## The opcode table -/

/-- The name of the operation's row in spec/opcode_table.json. -/
def Instr.mnemonic : Instr → String
  | .memRead _ => "MEM_READ"
  | .memWrite _ _ => "MEM_WRITE"
  | .inStatus => "IN_STATUS"
  | .inCrtData _ => "IN_CRTDATA"
  | .inOther _ => "IN_OTHER"
  | .outMode _ => "OUT_MODE"
  | .outCrtData _ _ => "OUT_CRTDATA"
  | .outCrtAddr _ _ => "OUT_CRTADDR"
  | .outOdd _ _ => "OUT_ODD"
  | .reset => "RESET"
  | .traverse => "TRAVERSE"
  | .install => "INSTALL"
  | .identify => "IDENTIFY"

/-- One row of spec/opcode_table.json: a word t belongs to it where t &&& mask = pattern. -/
structure TableRow where
  mnemonic : String
  pattern : Txn
  mask : Txn
  deriving DecidableEq, Repr

/-- spec/opcode_table.json, in its order: the first row that takes a word is the word's row (R86). -/
def opcodeTable : List TableRow :=
  [ ⟨"MEM_READ", 0x000000000000#48, 0xFF0000000000#48⟩,
    ⟨"MEM_WRITE", 0x100000000000#48, 0xFF0000000000#48⟩,
    ⟨"IN_STATUS", 0x20000003BA00#48, 0xFFFFFFFFFF00#48⟩,
    ⟨"IN_CRTDATA", 0x20000003B100#48, 0xFFFFFFFFF900#48⟩,
    ⟨"IN_OTHER", 0x200000000000#48, 0xFFFFFF000000#48⟩,
    ⟨"OUT_MODE", 0x30000003B800#48, 0xFFFFFFFFFF00#48⟩,
    ⟨"OUT_CRTDATA", 0x30000003B100#48, 0xFFFFFFFFF900#48⟩,
    ⟨"OUT_CRTADDR", 0x300000000000#48, 0xFFFFFF000100#48⟩,
    ⟨"OUT_ODD", 0x300000000100#48, 0xFFFFFF000100#48⟩,
    ⟨"RESET", 0x400000000000#48, 0xFF0000000000#48⟩,
    ⟨"TRAVERSE", 0x500000000000#48, 0xFF0000000000#48⟩,
    ⟨"INSTALL", 0x600000000000#48, 0xFF0000000000#48⟩,
    ⟨"IDENTIFY", 0x700000000000#48, 0xFF0000000000#48⟩ ]

/-- The row takes the word. -/
def TableRow.takes (r : TableRow) (t : Txn) : Bool := t &&& r.mask == r.pattern

/-- The first row, in table order, that takes the word (R86). -/
def firstRow (t : Txn) : Option TableRow := opcodeTable.find? (fun r => r.takes t)

/-! ## The host's table words -/

/-- The transaction word whose lowest nbits bits are w's and whose higher bits are 0. -/
def tableTxn (nbits w : Nat) : Txn := BitVec.ofNat 48 (w % 2 ^ nbits)

/-- What the decoder reads from a word numbered as spec/opcode_table.json numbers it, under the spec's example
ADDR_WIDTH (log 1). -/
def decodeTableWord (nbits w : Nat) : Option Instr :=
  match decode Config.exampleParams.addrWidth (tableTxn nbits w) with
  | .ok i => some i
  | .error _ => none

/-! ## Assembler notation (R97), numbers in decimal -/

/-- The operation's line in the spec's own assembler syntax. The answers of a traversal are no part of its word. -/
def Instr.asm : Instr → String
  | .memRead a => "rd " ++ toString a.toNat
  | .memWrite a v => "wr " ++ toString a.toNat ++ ", " ++ toString v.toNat
  | .inStatus => "in " ++ toString Config.statusPort.toNat
  | .inCrtData n => "in " ++ toString (crtDataPort n).toNat
  | .inOther p => "in " ++ toString p.toNat
  | .outMode v => "out " ++ toString Config.modePort.toNat ++ ", " ++ toString v.toNat
  | .outCrtData n v => "out " ++ toString (crtDataPort n).toNat ++ ", " ++ toString v.toNat
  | .outCrtAddr p v => "out " ++ toString p.toNat ++ ", " ++ toString v.toNat
  | .outOdd p v => "out " ++ toString p.toNat ++ ", " ++ toString v.toNat
  | .reset => "reset"
  | .traverse => "traverse"
  | .install => "install"
  | .identify => "identify"

end Sys2Proof
end

