-- ==== Sys2Proof/Machine/State.lean ====
section
/-! DEFINITION. The machine's state as plain data: the block's nine fields (10_state.md R20), and beside them the
model's own: the parameters of 00_scope.md R6, the requests the host has presented, the renderer's coming answers, and
the result of the latest operation. -/

namespace Sys2Proof.Machine

/-- The frame buffer's storage: (offset, byte) pairs in the canonical form `Memory.wf` of Machine/Ops.lean. -/
abbrev Memory := List Host.Cell

/-- What an offset that no pair lists reads as. DESIGN CHOICE: the source fills the buffer with unspecified pseudo-random
bytes (70_reset_and_hazards.md R225); every fill is some list of pairs, and only State.reset lists none (log 2). -/
def unlistedByte : Byte := 0x00#8

/-- Every dirty flag set. -/
def allDirty : DirtyMap := Table.fill 2048 true

/-- Every dirty flag clear. -/
def allClean : DirtyMap := Table.fill 2048 false

/-- `VideoAdapterState`, the block's one state record (10_state.md R20, rules R22 to R30). -/
structure VideoAdapterState where
  /-- 4096 bytes; cell c is bytes 2c (character) and 2c + 1 (attribute) (R22). -/
  buffer : Memory
  /-- One flag per cell (R23). -/
  dirtyCell : DirtyMap
  /-- While true every cell counts as dirty (R24). -/
  globalDirty : Bool
  /-- Whether TRAVERSE reports a cursor cell (R25). -/
  cursorVisible : Bool
  /-- Stored unmasked; masked with 0x7FF where a cell index is needed (R26, R37). -/
  cursorOffset : BitVec 16
  /-- What status reads return, after toggling bits 3 and 0 (R27). -/
  refreshToggle : Byte
  /-- Written at port 0x3B8; bit 5 is BLINK_EN (R28). -/
  modeControlRegister : Byte
  /-- The CRT index register (R29). -/
  crtAddressRegister : Byte
  /-- The 256 CRT registers (R30–R34). -/
  crtRegisterFile : CrtFile
  deriving DecidableEq, Repr

/-- The capability set of a cell (30_encoding.md R92), a member being a flag that is true. -/
structure Flags where
  underline : Bool
  highIntensity : Bool
  blink : Bool
  inverse : Bool
  deriving DecidableEq, Repr

/-- What one delivery hands the renderer (30_encoding.md R93, 43_render.md R167). -/
structure CellRecord where
  cellIndex : CellIndex
  character : Byte
  flags : Flags
  cursorCell : Option CellIndex
  deriving DecidableEq, Repr

/-- The device class of IDENTIFY: an enumeration whose other members belong to the host (42_lifecycle.md R155). -/
inductive DeviceClass where
  | video
  deriving DecidableEq, Repr

/-- The result of an operation, as its requester gets it (00_scope.md R9 `return`, `emit`; log 7). -/
inductive Response where
  /-- MEM_WRITE, IO_OUT and RESET have no result. -/
  | noResult
  /-- MEM_READ and IO_IN return one byte. -/
  | byte (value : Byte)
  /-- TRAVERSE: the records in the order they were emitted, and its Status (R165). -/
  | traversal (records : List CellRecord) (status : Status)
  /-- INSTALL: the two registrations it asks of the host (R150). -/
  | registrations (memBase : Addr) (memBytes : Nat) (portBase : Port) (portCount : Nat)
  /-- IDENTIFY: name and class (R155). -/
  | identity (name : String) (deviceClass : DeviceClass)
  deriving DecidableEq, Repr

/-- What the host presents at the block's interface (log 4). -/
inductive Request where
  /-- A transaction word, presented while no operation is in progress. -/
  | word (t : Txn)
  /-- An access of more than one byte, presented undivided (20_memory.md R59; log 10). -/
  | wide (t : Txn)
  /-- An operation presented while another is in progress, from inside the visitor or from another thread
  (60_exceptions.md R211; log 11). -/
  | overlapping (t : Txn)
  deriving DecidableEq, Repr

/-- The machine: the block, and the model's own fields. -/
structure State where
  /-- The block's state record (R20). -/
  block : VideoAdapterState
  /-- BASE_ADDR and ADDR_WIDTH; no operation writes them (log 1). -/
  params : Params
  /-- The requests not yet begun, in the host's order (20_memory.md R63; log 4). -/
  requests : List Request
  /-- The renderer's coming answers, the next one first (43_render.md R168; log 6). -/
  answers : List Status
  /-- How many answers traversals have taken so far: the number of the next free answer (log 6). -/
  answersTaken : Nat
  /-- The result of the latest operation (log 7). -/
  response : Response
  deriving DecidableEq, Repr

/-- The block raises no exception, trap or fault (60_exceptions.md R200): there is no reason to stop with one. -/
inductive Fault where
  deriving DecidableEq, Repr

/-- Why a step has no meaning. None is a hardware fault (60_exceptions.md R201). -/
inductive Refusal where
  /-- Raised by exec for an instruction this model gives no meaning. Safe: the model stops. No arm raises it. -/
  | notModelled (mnemonic : String)
  /-- Raised by the step for a transaction word that spells no operation (30_encoding.md R82, D6). Safe (log 9). -/
  | undecodable (e : DecodeError)
  /-- Raised by the step for an access wider than a byte (20_memory.md R59, D4). Safe (log 10). -/
  | wideAccess
  /-- Raised by the step for an operation presented while another is in progress (60_exceptions.md R211, D9). Unsafe for
  hosts that do not serialize: claims say nothing of their runs (log 11). -/
  | overlappingOperation
  deriving DecidableEq, Repr

/-- The block after creation and RESET. RESET gives cursorVisible, cursorOffset, globalDirty and dirtyCell (42_lifecycle.md
R151); the fields it leaves hold creation values, of which the spec gives none: DESIGN CHOICE zero (R152, R225; logs 2, 3). -/
def VideoAdapterState.reset : VideoAdapterState where
  buffer := []
  dirtyCell := allDirty
  globalDirty := true
  cursorVisible := true
  cursorOffset := 0x0000#16
  refreshToggle := 0x00#8
  modeControlRegister := 0x00#8
  crtAddressRegister := 0x00#8
  crtRegisterFile := Table.fill 256 0x00#8

/-- The machine after reset, nothing presented to it yet (logs 1, 4, 6, 7). -/
def State.reset : State where
  block := VideoAdapterState.reset
  params := Config.exampleParams
  requests := []
  answers := []
  answersTaken := 0
  response := .noResult

end Sys2Proof.Machine
end

