-- ==== Sys2Proof/Machine/Ops.lean ====
section
/-! DEFINITION. The named operations over the frame buffer, the dirty tracker, the CRT register file, the host's queue
and the renderer's answers. This hardware takes no exception and returns from none (60_exceptions.md R200, R206, R207), so
there is no operation for either. -/

namespace Sys2Proof.Machine

/-! ## The frame buffer -/

/-- The canonical form: offsets below 4096, strictly rising, and no pair that says what an unlisted offset reads as. -/
abbrev Memory.wf (m : Memory) : Prop :=
  m.Pairwise (fun x y => x.1 < y.1) ∧ ∀ e ∈ m, e.1 < 4096 ∧ e.2 ≠ unlistedByte

/-- The byte at an offset. -/
def Memory.read : Memory → Nat → Byte
  | [], _ => unlistedByte
  | (k, v) :: m, o => if k = o then v else Memory.read m o

/-- Put a pair into a rising list, before the first greater offset. -/
def Memory.insert (o : Nat) (v : Byte) : Memory → Memory
  | [] => [(o, v)]
  | (k, w) :: m => if o < k then (o, v) :: (k, w) :: m else (k, w) :: Memory.insert o v m

/-- Store a byte at an offset: its old pair goes, and a new one stands unless it would say what absence says. -/
def Memory.write (m : Memory) (o : Nat) (v : Byte) : Memory :=
  let others := m.filter (fun e => e.1 != o)
  if v = unlistedByte then others else Memory.insert o v others

/-! ## Arrays -/

/-- The entry at an index. -/
def tableGet {α : Type} {n : Nat} (t : Table α n) (i : Nat) (h : i < n) : α := t.entries[i]'(t.size.symm ▸ h)

/-- The array with one entry replaced. -/
def tableSet {α : Type} {n : Nat} (t : Table α n) (i : Nat) (v : α) : Table α n :=
  ⟨t.entries.set i v, (List.length_set ..).trans t.size⟩

/-! ## The dirty tracker (10_state.md R23) -/

/-- A cell's dirty flag. -/
def dirtyAt (d : DirtyMap) (c : CellIndex) : Bool := tableGet d c.toNat c.isLt

/-- Set a cell's flag. -/
def markCell (d : DirtyMap) (c : CellIndex) : DirtyMap := tableSet d c.toNat true

/-! ## The CRT register file (10_state.md R30) -/

/-- The stored byte of an entry; every index has one. -/
def crtEntry (f : CrtFile) (i : Byte) : Byte := tableGet f i.toNat i.isLt

/-- Store the whole byte in an entry. -/
def setCrtEntry (f : CrtFile) (i v : Byte) : CrtFile := tableSet f i.toNat v

/-! ## The cursor (10_state.md R37, 41_port_io.md R131) -/

/-- cursorOffset as a cell index: `cursorOffset & 0x7FF`, always masked at the point of use. -/
def cursorIndex (b : VideoAdapterState) : CellIndex := (b.cursorOffset &&& 0x7FF#16).setWidth 11

/-- markCursorCell (R131): the cursor's cell is marked, visible or not. -/
def markCursorCell (b : VideoAdapterState) : VideoAdapterState :=
  { b with dirtyCell := markCell b.dirtyCell (cursorIndex b) }

/-! ## The host's side -/

/-- Hand a result to the requester. -/
def respond (s : State) (b : VideoAdapterState) (r : Response) : State := { s with block := b, response := r }

/-- The renderer's next answer: the first one supplied, and where its list holds none, the free value of that answer's
number (43_render.md R168; log 6). -/
def nextAnswer (answers : List Status) (taken : Nat) : Status :=
  match answers with
  | a :: _ => a
  | [] => Config.visitorAnswer taken

/-- resp(k), answer k of a traversal that begins now (43_render.md R168): what `nextAnswer` gives after k answers. -/
def visitorAnswer (s : State) (k : Nat) : Status := nextAnswer (s.answers.drop k) (s.answersTaken + k)

/-- The renderer has given n answers. -/
def takeAnswers (s : State) (n : Nat) : State :=
  { s with answers := s.answers.drop n, answersTaken := s.answersTaken + n }

/-- The next request in the host's order and the machine once it has begun, or nothing presented (20_memory.md R63). -/
def nextRequest (s : State) : Option (Request × State) :=
  match s.requests with
  | [] => none
  | q :: rest => some (q, { s with requests := rest })

/-- The operation a request asks for, or why the block does not take it (R82, R59, R211). -/
def requestedInstr (addrWidth : Nat) : Request → Except Refusal Instr
  | .word t =>
    match decode addrWidth t with
    | .ok i => .ok i
    | .error e => .error (.undecodable e)
  | .wide _ => .error .wideAccess
  | .overlapping _ => .error .overlappingOperation

end Sys2Proof.Machine
end

