-- ==== Sys2Proof/Machine/Operands.lean ====
section
/-! DEFINITION. Operand forms: how a memory address reaches the buffer (20_memory.md R52), which cell a byte belongs to,
and the windows the host routes to the block (R51, R55). -/

namespace Sys2Proof.Machine

/-- off(A) = (A - BASE_ADDR) mod 4096, for every address (R52, R54). DEDUCED: the subtraction wraps at 32 bits, which R52
itself notes leaves bits 11:0 the same (log 16). -/
def bufferOffset (p : Params) (a : Addr) : BufferOffset := (a - p.baseAddr).setWidth 12

/-- The owning cell of an offset: `o >> 1` (R52). -/
def owningCell (o : BufferOffset) : CellIndex := (o >>> 1).setWidth 11

/-- Offset of a cell's character byte: 2c (10_state.md R22). -/
def charOffset (c : CellIndex) : Nat := 2 * c.toNat

/-- Offset of a cell's attribute byte: 2c + 1 (10_state.md R22). -/
def attrOffset (c : CellIndex) : Nat := 2 * c.toNat + 1

/-- The address is in the 32 KB memory window (R51). The block itself never asks. -/
def inMemoryWindow (p : Params) (a : Addr) : Bool :=
  decide (p.baseAddr.toNat ≤ a.toNat) && decide (a.toNat < p.baseAddr.toNat + Config.memWindowBytes)

/-- The port is in the 16-port window (R55). The block itself never asks. -/
def inPortWindow (q : Port) : Bool :=
  decide (Config.portBase.toNat ≤ q.toNat) && decide (q.toNat < Config.portBase.toNat + Config.portWindowCount)

end Sys2Proof.Machine
end

