-- ==== Sys2Proof/Machine/Flags.lean ====
section
/-! DEFINITION. The attribute decoder (43_render.md R175–R179), the block's only flag computation (10_state.md R36), and
the packed forms of a capability set and a cursor cell (30_encoding.md R92, R93). -/

namespace Sys2Proof.Machine

/-- BLINK_EN: bit 5 of the mode-control register (10_state.md R28). -/
def blinkEnabled (mode : Byte) : Bool := mode &&& 0x20#8 != 0#8

/-- The base rule (R175). -/
def baseFlags (attr mode : Byte) : Flags where
  underline := attr &&& 0x07#8 == 0x01#8
  highIntensity := attr &&& 0x08#8 != 0#8
  blink := attr &&& 0x80#8 != 0#8 && blinkEnabled mode
  inverse := false

/-- The attributes of the blank override (R176). -/
def isBlankAttr (attr : Byte) : Bool := attr == 0x00#8 || attr == 0x08#8 || attr == 0x80#8 || attr == 0x88#8

/-- The attributes of the inverse rule (R177). -/
def isInverseAttr (attr : Byte) : Bool := attr == 0x70#8 || attr == 0x78#8

/-- The attributes of the inverse-with-blink rule (R178). -/
def isInverseBlinkAttr (attr : Byte) : Bool := attr == 0xF0#8 || attr == 0xF8#8

/-- The byte a blank cell's character becomes. PRESUMED: the source says "space" without a code; the spec takes 0x20 from
general knowledge (R176, D11; log 12). -/
def spaceByte : Byte := 0x20#8

/-- The blank override, applied after the base rule (R176). -/
def applyBlank (attr : Byte) (r : Byte × Flags) : Byte × Flags :=
  if isBlankAttr attr then
    (spaceByte, { underline := false, highIntensity := false, blink := false, inverse := false })
  else r

/-- The inverse rule, applied after the blank override (R177). -/
def applyInverse (attr : Byte) (r : Byte × Flags) : Byte × Flags :=
  if isInverseAttr attr then (r.1, { r.2 with inverse := true }) else r

/-- The inverse-with-blink rule, applied last (R178). -/
def applyInverseBlink (attr mode : Byte) (r : Byte × Flags) : Byte × Flags :=
  if isInverseBlinkAttr attr then
    (r.1, { r.2 with inverse := true, blink := r.2.blink || blinkEnabled mode })
  else r

/-- decodeAttr (R179): the four rules in order. -/
def decodeAttr (ch attr mode : Byte) : Byte × Flags :=
  applyInverseBlink attr mode (applyInverse attr (applyBlank attr (ch, baseFlags attr mode)))

/-- A capability set in four bits: U, H, B, I at bits 0 to 3 (30_encoding.md R92, D12). -/
def Flags.pack (f : Flags) : BitVec 4 :=
  BitVec.ofBool f.inverse ++ BitVec.ofBool f.blink ++ BitVec.ofBool f.highIntensity ++ BitVec.ofBool f.underline

/-- The capability set of four bits (30_encoding.md R92). -/
def Flags.unpack (v : BitVec 4) : Flags where
  underline := v.getLsbD 0
  highIntensity := v.getLsbD 1
  blink := v.getLsbD 2
  inverse := v.getLsbD 3

/-- A cursor cell in twelve bits: bit 11 says present, bits 10:0 the index (30_encoding.md R93, D12). -/
def packCursorCell : Option CellIndex → BitVec 12
  | none => 0#12
  | some c => 1#1 ++ c

/-- The cursor cell of twelve bits (30_encoding.md R93). -/
def unpackCursorCell (v : BitVec 12) : Option CellIndex := if v.getLsbD 11 then some (v.setWidth 11) else none

end Sys2Proof.Machine
end

