-- ==== Sys2Proof/Machine/Framebuffer.lean ====
section
/-! DEFINITION. MEM_READ and MEM_WRITE (40_framebuffer.md R110, R111). -/

namespace Sys2Proof.Machine

/-- MEM_READ (R110): the byte at off(addr); no state of the block changes. -/
def execMemRead (addr : Addr) (s : State) : Host.Outcome State Fault Refusal :=
  .next (respond s s.block (.byte (s.block.buffer.read (bufferOffset s.params addr).toNat)))

/-- Store a byte at an offset and mark its cell, whatever the byte was (R111). -/
def storeByte (b : VideoAdapterState) (o : BufferOffset) (value : Byte) : VideoAdapterState :=
  { b with buffer := b.buffer.write o.toNat value, dirtyCell := markCell b.dirtyCell (owningCell o) }

/-- MEM_WRITE (R111): globalDirty is not touched. -/
def execMemWrite (addr : Addr) (value : Byte) (s : State) : Host.Outcome State Fault Refusal :=
  .next (respond s (storeByte s.block (bufferOffset s.params addr) value) .noResult)

end Sys2Proof.Machine
end

