-- ==== Sys2Proof/Machine/Lifecycle.lean ====
section
/-! DEFINITION. RESET, INSTALL and IDENTIFY (42_lifecycle.md). -/

namespace Sys2Proof.Machine

/-- The four effects of RESET (R151); every other field is unchanged (R152). -/
def resetBlock (b : VideoAdapterState) : VideoAdapterState :=
  { b with cursorVisible := true, cursorOffset := 0x0000#16, globalDirty := true, dirtyCell := allDirty }

/-- RESET (R151). -/
def execReset (s : State) : Host.Outcome State Fault Refusal := .next (respond s (resetBlock s.block) .noResult)

/-- INSTALL (R150): asks the host for the two windows; no field of the block changes. -/
def execInstall (s : State) : Host.Outcome State Fault Refusal :=
  .next (respond s s.block (.registrations s.params.baseAddr Config.memWindowBytes Config.portBase Config.portWindowCount))

/-- IDENTIFY (R155): the device's name, a free constant, and its class (log 8). -/
def execIdentify (s : State) : Host.Outcome State Fault Refusal :=
  .next (respond s s.block (.identity Config.deviceName .video))

end Sys2Proof.Machine
end

