-- ==== Sys2Proof/Machine/PortIo.lean ====
section
/-! DEFINITION. Port reads and writes and the CRT register multiplexer (41_port_io.md). -/

namespace Sys2Proof.Machine

/-! ## Port reads -/

/-- The bits a status read inverts: 3 and 0 (R121). -/
def statusToggleMask : Byte := 0x09#8

/-- IN_STATUS (R121): refreshToggle is toggled and its new value, all 8 bits, returned. -/
def execInStatus (s : State) : Host.Outcome State Fault Refusal :=
  let toggled := s.block.refreshToggle ^^^ statusToggleMask
  .next (respond s { s.block with refreshToggle := toggled } (.byte toggled))

/-- The CRT register that crtAddressRegister selects (R122). -/
def selectedCrtEntry (b : VideoAdapterState) : Byte := crtEntry b.crtRegisterFile b.crtAddressRegister

/-- IN_CRTDATA (R122): the selected entry; the four ports are aliases. -/
def execInCrtData (_n : BitVec 2) (s : State) : Host.Outcome State Fault Refusal :=
  .next (respond s s.block (.byte (selectedCrtEntry s.block)))

/-- IN_OTHER (R123): zero. -/
def execInOther (_port : Port) (s : State) : Host.Outcome State Fault Refusal :=
  .next (respond s s.block (.byte 0x00#8))

/-! ## Port writes -/

/-- What every IO_OUT does first (R127). -/
def setGlobalDirty (b : VideoAdapterState) : VideoAdapterState := { b with globalDirty := true }

/-- OUT_MODE (R128). -/
def execOutMode (value : Byte) (s : State) : Host.Outcome State Fault Refusal :=
  .next (respond s { setGlobalDirty s.block with modeControlRegister := value } .noResult)

/-- CRT register 0x0A: bit 5 set shows the cursor, clear hides it (R130; the polarity is the source's, 90_conflicts.md
C6); its cell is marked. -/
def cursorControlWrite (value : Byte) (b : VideoAdapterState) : VideoAdapterState :=
  markCursorCell { b with cursorVisible := value &&& 0x20#8 != 0#8 }

/-- cursorOffset with its bits 15:8 replaced (R132). -/
def withCursorHigh (offset : BitVec 16) (value : Byte) : BitVec 16 :=
  (offset &&& 0x00FF#16) ||| (value.setWidth 16 <<< 8)

/-- cursorOffset with its bits 7:0 replaced (R133). -/
def withCursorLow (offset : BitVec 16) (value : Byte) : BitVec 16 := (offset &&& 0xFF00#16) ||| value.setWidth 16

/-- Move the cursor, marking the cell it leaves and the cell it comes to: the bracket (R132, R133). -/
def moveCursor (offset : BitVec 16) (b : VideoAdapterState) : VideoAdapterState :=
  markCursorCell { markCursorCell b with cursorOffset := offset }

/-- CRT register 0x0E: the high byte of cursorOffset (R132). -/
def cursorHighWrite (value : Byte) (b : VideoAdapterState) : VideoAdapterState :=
  moveCursor (withCursorHigh b.cursorOffset value) b

/-- CRT register 0x0F: the low byte of cursorOffset (R133). -/
def cursorLowWrite (value : Byte) (b : VideoAdapterState) : VideoAdapterState :=
  moveCursor (withCursorLow b.cursorOffset value) b

/-- The effect of a CRT data write beyond the store, by index (R129, R134). -/
def crtIndexEffect (index value : Byte) (b : VideoAdapterState) : VideoAdapterState :=
  if index = 0x0A#8 then cursorControlWrite value b
  else if index = 0x0E#8 then cursorHighWrite value b
  else if index = 0x0F#8 then cursorLowWrite value b
  else b

/-- crtDataWrite (R129): the store into the selected entry, then the index's effect. -/
def crtDataWrite (value : Byte) (b : VideoAdapterState) : VideoAdapterState :=
  crtIndexEffect b.crtAddressRegister value
    { b with crtRegisterFile := setCrtEntry b.crtRegisterFile b.crtAddressRegister value }

/-- OUT_CRTDATA (R129): the four ports are aliases. -/
def execOutCrtData (_n : BitVec 2) (value : Byte) (s : State) : Host.Outcome State Fault Refusal :=
  .next (respond s (crtDataWrite value (setGlobalDirty s.block)) .noResult)

/-- OUT_CRTADDR (R135): the whole byte, no masking, no auto-increment. -/
def execOutCrtAddr (_port : Port) (value : Byte) (s : State) : Host.Outcome State Fault Refusal :=
  .next (respond s { setGlobalDirty s.block with crtAddressRegister := value } .noResult)

/-- OUT_ODD (R136): globalDirty and nothing else; the value is ignored. -/
def execOutOdd (_port : Port) (_value : Byte) (s : State) : Host.Outcome State Fault Refusal :=
  .next (respond s (setGlobalDirty s.block) .noResult)

end Sys2Proof.Machine
end

