-- ==== Sys2Proof/Machine/Render.lean ====
section
/-! DEFINITION. TRAVERSE, the differential render traversal (43_render.md R165–R174). -/

namespace Sys2Proof.Machine

/-- The cursor cell every record of one traversal carries (R166). -/
def cursorCell (b : VideoAdapterState) : Option CellIndex := if b.cursorVisible then some (cursorIndex b) else none

/-- The record of a cell: its two bytes, decoded (R167, R170). -/
def cellRecord (b : VideoAdapterState) (c : CellIndex) : CellRecord :=
  let decoded := decodeAttr (b.buffer.read (charOffset c)) (b.buffer.read (attrOffset c)) b.modeControlRegister
  { cellIndex := c, character := decoded.1, flags := decoded.2, cursorCell := cursorCell b }

/-- The first n cells in ascending order. -/
def cellsBelow (n : Nat) : List CellIndex := (List.range n).map (BitVec.ofNat 11)

/-- Cells 0 to 2047 in ascending order (R169). Irreducible, so that no tactic unfolds 2048 cells by itself. -/
@[irreducible] def allCells : List CellIndex := cellsBelow 2048

theorem cellsBelow_length (n : Nat) : (cellsBelow n).length = n := by
  rw [cellsBelow, List.length_map, List.length_range]

theorem allCells_length : allCells.length = 2048 := by
  unfold allCells; exact cellsBelow_length 2048

/-- Every cell with its dirty flag, in the order of the scan. -/
def flaggedCells (d : DirtyMap) : List (CellIndex × Bool) := allCells.zip d.entries

/-- What a scan has done: the records it emitted in order, the status that aborted it if one did, and the flags it leaves
the cells it was given. -/
structure ScanResult where
  records : List CellRecord
  aborted : Option Status
  flags : List Bool
  deriving DecidableEq, Repr

/-- The cell before the rest of a scan was delivered and accepted: its record comes first and its flag is clear (R172). -/
def ScanResult.deliver (r : CellRecord) (x : ScanResult) : ScanResult :=
  { x with records := r :: x.records, flags := false :: x.flags }

/-- The cell before the rest of a scan was not due: its flag stays. -/
def ScanResult.pass (flag : Bool) (x : ScanResult) : ScanResult := { x with flags := flag :: x.flags }

/-- The loop of R165 over the cells not yet reached, each with its flag, and the renderer's coming answers: a due cell is
delivered (R169) and takes one answer (R168); a non-zero answer stops the scan with the flags of this cell and of the
later ones left (R171); answer 0 clears the flag (R172). -/
def scanCells (b : VideoAdapterState) : List (CellIndex × Bool) → List Status → Nat → ScanResult
  | [], _, _ => { records := [], aborted := none, flags := [] }
  | (c, flag) :: cells, answers, taken =>
    if b.globalDirty || flag then
      if nextAnswer answers taken = 0#32 then
        (scanCells b cells answers.tail (taken + 1)).deliver (cellRecord b c)
      else
        { records := [cellRecord b c]
          aborted := some (nextAnswer answers taken)
          flags := flag :: cells.map Prod.snd }
    else (scanCells b cells answers taken).pass flag

/-- A scan leaves one flag for each cell it was given. -/
theorem scanCells_flags_length (b : VideoAdapterState) (cells : List (CellIndex × Bool)) (answers : List Status)
    (taken : Nat) : (scanCells b cells answers taken).flags.length = cells.length := by
  induction cells generalizing answers taken with
  | nil => rfl
  | cons x cells ih =>
    obtain ⟨c, flag⟩ := x
    unfold scanCells
    split
    · split
      · exact congrArg (· + 1) (ih answers.tail (taken + 1))
      · exact congrArg (· + 1) (List.length_map ..)
    · exact congrArg (· + 1) (ih answers taken)

theorem flaggedCells_length (d : DirtyMap) : (flaggedCells d).length = 2048 := by
  rw [flaggedCells, List.length_zip, allCells_length, d.size, Nat.min_self]

/-- The scan of every cell, from the block's own flags (R165). -/
def scanBlock (s : State) : ScanResult :=
  scanCells s.block (flaggedCells s.block.dirtyCell) s.answers s.answersTaken

theorem scanBlock_flags_length (s : State) : (scanBlock s).flags.length = 2048 := by
  rw [scanBlock, scanCells_flags_length, flaggedCells_length]

/-- The dirty flags after the scan. -/
def scannedFlags (s : State) : DirtyMap := ⟨(scanBlock s).flags, scanBlock_flags_length s⟩

/-- The Status of a traversal: the visitor's own value on an abort (R171), else 0 (R174; log 13). -/
def ScanResult.status (x : ScanResult) : Status := x.aborted.getD 0#32

/-- The block after a traversal: the scan's flags, and globalDirty cleared only where no abort stopped it (R171–R173). -/
def afterTraverse (s : State) : VideoAdapterState :=
  { s.block with
    dirtyCell := scannedFlags s
    globalDirty := s.block.globalDirty && (scanBlock s).aborted.isSome }

/-- TRAVERSE (R165): one indivisible operation, the renderer's answers included. -/
def execTraverse (s : State) : Host.Outcome State Fault Refusal :=
  .next (respond (takeAnswers s (scanBlock s).records.length) (afterTraverse s)
    (.traversal (scanBlock s).records (scanBlock s).status))

end Sys2Proof.Machine
end

