-- ==== Sys2Proof/Machine/Dispatch.lean ====
section
/-! DEFINITION. Every operation's meaning, one arm each. -/

namespace Sys2Proof.Machine

def exec (i : Instr) (s : State) : Host.Outcome State Fault Refusal :=
  match i with
  | .memRead addr => Sys2Proof.Machine.execMemRead addr s
  | .memWrite addr value => Sys2Proof.Machine.execMemWrite addr value s
  | .inStatus => Sys2Proof.Machine.execInStatus s
  | .inCrtData n => Sys2Proof.Machine.execInCrtData n s
  | .inOther port => Sys2Proof.Machine.execInOther port s
  | .outMode value => Sys2Proof.Machine.execOutMode value s
  | .outCrtData n value => Sys2Proof.Machine.execOutCrtData n value s
  | .outCrtAddr port value => Sys2Proof.Machine.execOutCrtAddr port value s
  | .outOdd port value => Sys2Proof.Machine.execOutOdd port value s
  | .reset => Sys2Proof.Machine.execReset s
  | .traverse => Sys2Proof.Machine.execTraverse s
  | .install => Sys2Proof.Machine.execInstall s
  | .identify => Sys2Proof.Machine.execIdentify s

end Sys2Proof.Machine
end

