-- ==== Sys2Proof/Machine/Step.lean ====
section
/-! DEFINITION. One step: the next request in the host's order, run to completion (20_memory.md R62, R63). -/

namespace Sys2Proof.Machine

/-- One step. With nothing presented the block takes no step of its own and every field persists (60_exceptions.md R210,
R217; log 5). -/
def step (s : State) : Host.Outcome State Fault Refusal :=
  match nextRequest s with
  | none => .next s
  | some (q, s') =>
    match requestedInstr s.params.addrWidth q with
    | .ok i => exec i s'
    | .error r => .refused r

/-- The host presents the word as its next request, before any it has presented already (log 4). -/
def State.withFetchWord (s : State) (nbits w : Nat) : State :=
  { s with requests := .word (tableTxn nbits w) :: s.requests }

end Sys2Proof.Machine
end

