-- ==== Sys2Proof/Machine/Pseudo.lean ====
section
/-! DEFINITION. The pseudo-operations of 30_encoding.md R98 as lists of operations, and running such a list. -/

namespace Sys2Proof.Machine

/-- A pseudo-operation of R98. -/
inductive Pseudo where
  | crtw (index value : Byte)
  | crtr (index : Byte)
  | setCursor (offset : BitVec 16)
  | cursorOn
  | cursorOff
  | mode (value : Byte)
  | putc (cell : CellIndex) (ch attr : Byte)
  | status
  deriving DecidableEq, Repr

/-- The alias number of the data port 0x3B5 that R98 uses. -/
def pseudoDataAlias : BitVec 2 := crtDataAlias 0x3B5#16

/-- The index port 0x3B4 that R98 uses. -/
def pseudoIndexPort : Port := 0x3B4#16

/-- `out 0x3B4, index ; out 0x3B5, value`. -/
def expandCrtWrite (index value : Byte) : List Instr :=
  [.outCrtAddr pseudoIndexPort index, .outCrtData pseudoDataAlias value]

/-- The operations a pseudo-operation stands for (R98). -/
def Pseudo.expand (p : Params) : Pseudo → List Instr
  | .crtw index value => expandCrtWrite index value
  | .crtr index => [.outCrtAddr pseudoIndexPort index, .inCrtData pseudoDataAlias]
  | .setCursor n => expandCrtWrite 0x0E#8 (n.extractLsb' 8 8) ++ expandCrtWrite 0x0F#8 (n.extractLsb' 0 8)
  | .cursorOn => expandCrtWrite 0x0A#8 0x20#8
  | .cursorOff => expandCrtWrite 0x0A#8 0x00#8
  | .mode value => [.outMode value]
  | .putc c ch attr =>
    [.memWrite (p.baseAddr + BitVec.ofNat 32 (charOffset c)) ch,
      .memWrite (p.baseAddr + BitVec.ofNat 32 (attrOffset c)) attr]
  | .status => [.inStatus]

/-- Operations one after another, each from the state the one before it left (20_memory.md R63). -/
def runOps : List Instr → State → Host.Outcome State Fault Refusal
  | [], s => .next s
  | i :: is, s =>
    match exec i s with
    | .next t => runOps is t
    | .fault r => .fault r
    | .refused r => .refused r

end Sys2Proof.Machine
end

