-- ==== Sys2Proof/Safety.lean ====
section
/-! DEFINITION. The vocabulary of claims: the invariant every step keeps, the spec's own formulas where the model
computes another way, and what a renderer's answers say of the traversal to come. -/

namespace Sys2Proof

/-- The bits of its word that an operation's row does not ignore: K and Z always, A for K = 0..3, D for K = 1 and 3
(30_encoding.md R85). -/
def Instr.careMask : Instr → Txn
  | .memRead _ => 0xFFFFFFFFFF00#48
  | .memWrite _ _ => 0xFFFFFFFFFFFF#48
  | .inStatus => 0xFFFFFFFFFF00#48
  | .inCrtData _ => 0xFFFFFFFFFF00#48
  | .inOther _ => 0xFFFFFFFFFF00#48
  | .outMode _ => 0xFFFFFFFFFFFF#48
  | .outCrtData _ _ => 0xFFFFFFFFFFFF#48
  | .outCrtAddr _ _ => 0xFFFFFFFFFFFF#48
  | .outOdd _ _ => 0xFFFFFFFFFFFF#48
  | .reset => 0xFF0000000000#48
  | .traverse => 0xFF0000000000#48
  | .install => 0xFF0000000000#48
  | .identify => 0xFF0000000000#48

/-- The operation is an IO_IN (30_encoding.md R87). -/
def Instr.isPortRead : Instr → Bool
  | .inStatus => true
  | .inCrtData _ => true
  | .inOther _ => true
  | .memRead _ => false
  | .memWrite _ _ => false
  | .outMode _ => false
  | .outCrtData _ _ => false
  | .outCrtAddr _ _ => false
  | .outOdd _ _ => false
  | .reset => false
  | .traverse => false
  | .install => false
  | .identify => false

/-- The operation is an IO_OUT (30_encoding.md R88). -/
def Instr.isPortWrite : Instr → Bool
  | .outMode _ => true
  | .outCrtData _ _ => true
  | .outCrtAddr _ _ => true
  | .outOdd _ _ => true
  | .memRead _ => false
  | .memWrite _ _ => false
  | .inStatus => false
  | .inCrtData _ => false
  | .inOther _ => false
  | .reset => false
  | .traverse => false
  | .install => false
  | .identify => false

namespace Machine

/-- The state invariant: the frame buffer is in its canonical form, with offsets 0..4095 only (10_state.md R22), and the
parameters are ones 00_scope.md R6 allows. -/
abbrev State.Inv (s : State) : Prop := Memory.wf s.block.buffer ∧ s.params.legal

/-- off(A) as 20_memory.md R52 writes it: the non-negative remainder of the exact difference. -/
def specOffset (p : Params) (a : Addr) : Nat := (((a.toNat : Int) - (p.baseAddr.toNat : Int)) % 4096).toNat

/-- The cell cursorOffset addresses: its low 11 bits (10_state.md R26). -/
def specCursorCell (offset : BitVec 16) : Nat := offset.toNat % 2048

/-- A traversal would deliver the cell (43_render.md R169). -/
def isDue (b : VideoAdapterState) (c : CellIndex) : Bool := b.globalDirty || dirtyAt b.dirtyCell c

/-- The cells a traversal has to deliver, in its order (43_render.md R169). -/
def dueCells (b : VideoAdapterState) : List CellIndex := allCells.filter (isDue b)

/-- The renderer accepts the next n records: it answers each of them with 0 (43_render.md R168). -/
def acceptsFirst (s : State) (n : Nat) : Prop := ∀ k, k < n → visitorAnswer s k = 0#32

/-- The renderer accepts k records and aborts on the next one (43_render.md R168). -/
def abortsAt (s : State) (k : Nat) : Prop := acceptsFirst s k ∧ visitorAnswer s k ≠ 0#32

end Machine

end Sys2Proof
end

