-- ==== Sys2Proof/Certificates/Slice0/Obligations.lean ====
section
/-! DEFINITION. The statements for the provers, each from a rule of spec/ named in its docstring. In an equation
`exec i s = .next { s with … }` every part of the machine that the braces do not name is unchanged: that is the frame. -/

open Sys2Proof Sys2Proof.Machine

/-! ## What each operation does -/

/-- MEM_READ (R110) answers the byte at off(addr), for every address, and changes nothing. -/
def Obligations.MemReadReturnsTheAliasedByte : Prop :=
  ∀ (s : State) (addr : Addr),
    exec (.memRead addr) s =
      .next { s with response := .byte (Memory.read s.block.buffer (specOffset s.params addr)) }

/-- MEM_WRITE (R111) stores its byte at off(addr) and nowhere else, marks cell off(addr) / 2 and no other, whatever the
byte was before, and changes nothing else: not globalDirty. -/
def Obligations.MemWriteStoresTheByteAndMarksItsCell : Prop :=
  ∀ (s : State) (addr : Addr) (value : Byte), ∃ t, exec (.memWrite addr value) s = .next t ∧
    (∀ o, Memory.read t.block.buffer o =
      if o = specOffset s.params addr then value else Memory.read s.block.buffer o) ∧
    (∀ c, dirtyAt t.block.dirtyCell c =
      (dirtyAt s.block.dirtyCell c || decide (c.toNat = specOffset s.params addr / 2))) ∧
    t = { s with
      block := { s.block with buffer := t.block.buffer, dirtyCell := t.block.dirtyCell }
      response := .noResult }

/-- IN_STATUS (R121) inverts bits 3 and 0 of refreshToggle, keeps the others, answers the new byte, and changes nothing
else. -/
def Obligations.InStatusTogglesAndReturnsTheNewByte : Prop :=
  ∀ s : State, ∃ t, exec .inStatus s = .next t ∧
    (∀ j, j < 8 → t.block.refreshToggle.getLsbD j = (s.block.refreshToggle.getLsbD j ^^ (j == 0 || j == 3))) ∧
    t = { s with
      block := { s.block with refreshToggle := t.block.refreshToggle }
      response := .byte t.block.refreshToggle }

/-- IN_CRTDATA (R122), through each of the four alias ports, answers the entry crtAddressRegister selects, and changes
nothing. -/
def Obligations.InCrtDataReturnsTheSelectedEntry : Prop :=
  ∀ (s : State) (n : BitVec 2),
    exec (.inCrtData n) s =
      .next { s with response := .byte (crtEntry s.block.crtRegisterFile s.block.crtAddressRegister) }

/-- IN_OTHER (R123) answers 0 at every other port, and changes nothing. For ports outside 0x3B0..0x3BF this is the spec's
decision D20 (U17), log 20. -/
def Obligations.InOtherReturnsZero : Prop :=
  ∀ (s : State) (port : Port), exec (.inOther port) s = .next { s with response := .byte 0x00#8 }

/-- OUT_MODE (R127, R128) sets globalDirty and stores the whole byte in modeControlRegister. -/
def Obligations.OutModeStoresTheModeByte : Prop :=
  ∀ (s : State) (value : Byte),
    exec (.outMode value) s =
      .next { s with
        block := { s.block with globalDirty := true, modeControlRegister := value }
        response := .noResult }

/-- OUT_CRTADDR (R127, R135) sets globalDirty and stores the whole byte in crtAddressRegister, at every even port but the
mode port: refreshToggle stays, at 0x3BA too. For ports outside 0x3B0..0x3BF this is the spec's decision D20 (U17), log 20. -/
def Obligations.OutCrtAddrSelectsTheRegister : Prop :=
  ∀ (s : State) (port : Port) (value : Byte),
    exec (.outCrtAddr port value) s =
      .next { s with
        block := { s.block with globalDirty := true, crtAddressRegister := value }
        response := .noResult }

/-- OUT_ODD (R127, R136) sets globalDirty and does nothing else. For ports outside 0x3B0..0x3BF this is the spec's decision
D20 (U17), log 20. -/
def Obligations.OutOddOnlySetsGlobalDirty : Prop :=
  ∀ (s : State) (port : Port) (value : Byte),
    exec (.outOdd port value) s =
      .next { s with block := { s.block with globalDirty := true }, response := .noResult }

/-- R34: a write to a CRT register other than 0x0A, 0x0E and 0x0F stores the byte, sets globalDirty as every IO_OUT does,
and has no other effect; a read then returns the stored byte. -/
def Obligations.OtherCrtRegistersArePlainStorage : Prop :=
  ∀ (s : State) (n : BitVec 2) (value : Byte),
    s.block.crtAddressRegister ≠ 0x0A#8 → s.block.crtAddressRegister ≠ 0x0E#8 →
    s.block.crtAddressRegister ≠ 0x0F#8 →
    ∃ t, exec (.outCrtData n value) s = .next t ∧
      (∀ i, crtEntry t.block.crtRegisterFile i =
        if i = s.block.crtAddressRegister then value else crtEntry s.block.crtRegisterFile i) ∧
      t = { s with
        block := { s.block with globalDirty := true, crtRegisterFile := t.block.crtRegisterFile }
        response := .noResult } ∧
      ∀ m : BitVec 2, exec (.inCrtData m) t = .next { t with response := .byte value }

/-- R130, the write of CRT register 0x0A: bit 5 set shows the cursor and clear hides it, the cursor's cell is marked
either way, the byte is stored in entry 0x0A, globalDirty is set, and nothing else changes. -/
def Obligations.CursorControlWriteShowsOrHides : Prop :=
  ∀ (s : State) (n : BitVec 2) (value : Byte), s.block.crtAddressRegister = 0x0A#8 →
    ∃ t, exec (.outCrtData n value) s = .next t ∧
      (∀ i, crtEntry t.block.crtRegisterFile i = if i = 0x0A#8 then value else crtEntry s.block.crtRegisterFile i) ∧
      t.block.cursorVisible = value.getLsbD 5 ∧
      (∀ c, dirtyAt t.block.dirtyCell c =
        (dirtyAt s.block.dirtyCell c || decide (c.toNat = specCursorCell s.block.cursorOffset))) ∧
      t = { s with
        block := { s.block with
          globalDirty := true
          crtRegisterFile := t.block.crtRegisterFile
          cursorVisible := t.block.cursorVisible
          dirtyCell := t.block.dirtyCell }
        response := .noResult }

/-- R132, the write of CRT register 0x0E: the byte becomes bits 15:8 of cursorOffset, the cells of the old and of the new
offset are marked and no others, visible or not, the byte is stored in entry 0x0E, globalDirty is set, and nothing else
changes. -/
def Obligations.CursorHighWriteBracketsBothCells : Prop :=
  ∀ (s : State) (n : BitVec 2) (value : Byte), s.block.crtAddressRegister = 0x0E#8 →
    ∃ t, exec (.outCrtData n value) s = .next t ∧
      (∀ i, crtEntry t.block.crtRegisterFile i = if i = 0x0E#8 then value else crtEntry s.block.crtRegisterFile i) ∧
      t.block.cursorOffset.toNat = value.toNat * 256 + s.block.cursorOffset.toNat % 256 ∧
      (∀ c, dirtyAt t.block.dirtyCell c =
        (dirtyAt s.block.dirtyCell c || decide (c.toNat = specCursorCell s.block.cursorOffset) ||
          decide (c.toNat = specCursorCell t.block.cursorOffset))) ∧
      t = { s with
        block := { s.block with
          globalDirty := true
          crtRegisterFile := t.block.crtRegisterFile
          cursorOffset := t.block.cursorOffset
          dirtyCell := t.block.dirtyCell }
        response := .noResult }

/-- R133, the write of CRT register 0x0F: as R132, with bits 7:0 of cursorOffset. The merge formula is the spec's own
derivation. -/
def Obligations.CursorLowWriteBracketsBothCells : Prop :=
  ∀ (s : State) (n : BitVec 2) (value : Byte), s.block.crtAddressRegister = 0x0F#8 →
    ∃ t, exec (.outCrtData n value) s = .next t ∧
      (∀ i, crtEntry t.block.crtRegisterFile i = if i = 0x0F#8 then value else crtEntry s.block.crtRegisterFile i) ∧
      t.block.cursorOffset.toNat = s.block.cursorOffset.toNat / 256 * 256 + value.toNat ∧
      (∀ c, dirtyAt t.block.dirtyCell c =
        (dirtyAt s.block.dirtyCell c || decide (c.toNat = specCursorCell s.block.cursorOffset) ||
          decide (c.toNat = specCursorCell t.block.cursorOffset))) ∧
      t = { s with
        block := { s.block with
          globalDirty := true
          crtRegisterFile := t.block.crtRegisterFile
          cursorOffset := t.block.cursorOffset
          dirtyCell := t.block.dirtyCell }
        response := .noResult }

/-- R32: CRT register 0x0E. A write stores the byte in the register and sets cursorOffset[15:8] to it; a read returns the
register. -/
def Obligations.CursorHighRegisterStoresAndReadsBack : Prop :=
  (∀ (s : State) (n : BitVec 2) (value : Byte), s.block.crtAddressRegister = 0x0E#8 →
    ∃ t, exec (.outCrtData n value) s = .next t ∧
      crtEntry t.block.crtRegisterFile 0x0E#8 = value ∧
      ∀ j, j < 8 → t.block.cursorOffset.getLsbD (8 + j) = value.getLsbD j) ∧
  (∀ (s : State) (n : BitVec 2), s.block.crtAddressRegister = 0x0E#8 →
    exec (.inCrtData n) s = .next { s with response := .byte (crtEntry s.block.crtRegisterFile 0x0E#8) })

/-- R33: CRT register 0x0F. A write stores the byte in the register and sets cursorOffset[7:0] to it; a read returns the
register. -/
def Obligations.CursorLowRegisterStoresAndReadsBack : Prop :=
  (∀ (s : State) (n : BitVec 2) (value : Byte), s.block.crtAddressRegister = 0x0F#8 →
    ∃ t, exec (.outCrtData n value) s = .next t ∧
      crtEntry t.block.crtRegisterFile 0x0F#8 = value ∧
      ∀ j, j < 8 → t.block.cursorOffset.getLsbD j = value.getLsbD j) ∧
  (∀ (s : State) (n : BitVec 2), s.block.crtAddressRegister = 0x0F#8 →
    exec (.inCrtData n) s = .next { s with response := .byte (crtEntry s.block.crtRegisterFile 0x0F#8) })

/-- R131: markCursorCell marks the cell `cursorOffset & 0x7FF` and no other, visible or not, and changes nothing else:
not globalDirty. -/
def Obligations.MarkCursorCellMarksTheMaskedCell : Prop :=
  ∀ b : VideoAdapterState,
    (∀ c, dirtyAt (markCursorCell b).dirtyCell c =
      (dirtyAt b.dirtyCell c || decide (c.toNat = specCursorCell b.cursorOffset))) ∧
    markCursorCell b = { b with dirtyCell := (markCursorCell b).dirtyCell }

/-- RESET (R151, and R152's reading that nothing else changes, which is the spec's decision D8, log 14): cursorVisible true,
cursorOffset 0, globalDirty true, every dirty flag true, every other field as before. -/
def Obligations.ResetHasExactlyFourEffects : Prop :=
  ∀ s : State, ∃ t, exec .reset s = .next t ∧
    (∀ c, dirtyAt t.block.dirtyCell c = true) ∧
    t = { s with
      block := { s.block with
        cursorVisible := true
        cursorOffset := 0x0000#16
        globalDirty := true
        dirtyCell := t.block.dirtyCell }
      response := .noResult }

/-- INSTALL (R150, D13): it asks the host for the 32 KB memory window at BASE_ADDR and the 16 ports from 0x3B0 (D3), and
changes nothing. -/
def Obligations.InstallAsksForTheTwoWindows : Prop :=
  ∀ s : State, exec .install s =
    .next { s with response := .registrations s.params.baseAddr 32768 0x3B0#16 16 }

/-- IDENTIFY (R155, D14): it answers the device name, a free constant of Config, and the class VIDEO, and changes
nothing. -/
def Obligations.IdentifyReturnsNameAndClass : Prop :=
  ∀ s : State, exec .identify s = .next { s with response := .identity Config.deviceName .video }

/-! ## TRAVERSE -/

/-- A traversal whose visitor accepts every record (R165, R169, R172–R174): it delivers exactly the due cells, in ascending
order, with the records of R167, returns 0 (the spec's reading, D10; log 13), and leaves every flag and globalDirty false; nothing
else of the block changes, and one answer was taken for each record. -/
def Obligations.AcceptedTraversalDeliversExactlyTheDueCells : Prop :=
  ∀ s : State, acceptsFirst s (dueCells s.block).length →
    ∃ t, exec .traverse s = .next t ∧
      (∀ c, dirtyAt t.block.dirtyCell c = false) ∧
      t = { s with
        block := { s.block with dirtyCell := t.block.dirtyCell, globalDirty := false }
        answers := s.answers.drop (dueCells s.block).length
        answersTaken := s.answersTaken + (dueCells s.block).length
        response := .traversal ((dueCells s.block).map (cellRecord s.block)) 0#32 }

/-- R171, the visitor aborts on the record of the (k+1)-th due cell: the scan stops there and returns the visitor's value
unchanged; the cells delivered before have had their flags cleared, the current cell's flag and every later cell's are
unchanged, and so is globalDirty and everything else of the block; the current cell is due for the next traversal. -/
def Obligations.AbortedTraversalStopsAtTheRefusedCell : Prop :=
  ∀ (s : State) (k : Nat) (hk : k < (dueCells s.block).length), abortsAt s k →
    ∃ t, exec .traverse s = .next t ∧
      t.response = .traversal (((dueCells s.block).take (k + 1)).map (cellRecord s.block)) (visitorAnswer s k) ∧
      (∀ c, dirtyAt t.block.dirtyCell c =
        (dirtyAt s.block.dirtyCell c && !((dueCells s.block).take k).contains c)) ∧
      isDue t.block (dueCells s.block)[k] = true ∧
      t = { s with
        block := { s.block with dirtyCell := t.block.dirtyCell }
        answers := s.answers.drop (k + 1)
        answersTaken := s.answersTaken + (k + 1)
        response := t.response }

/-- Every traversal completes, whatever the visitor answers, and touches only the dirty flags and globalDirty of the block
(R165 (d), R200, R202). -/
def Obligations.TraverseAlwaysCompletes : Prop :=
  ∀ s : State, ∃ t records status, exec .traverse s = .next t ∧
    t.response = .traversal records status ∧
    t = { s with
      block := { s.block with dirtyCell := t.block.dirtyCell, globalDirty := t.block.globalDirty }
      answers := s.answers.drop records.length
      answersTaken := s.answersTaken + records.length
      response := t.response }

/-- R166: the cursor cell is computed once from the state before the scan, `cursorOffset & 0x7FF` where the cursor is
visible and NONE where it is not, and every record of one traversal carries it; the cursor cell is delivered only if it is
due like any other cell, and TRAVERSE never marks it. -/
def Obligations.EveryRecordCarriesTheSameCursorCell : Prop :=
  ∀ (s t : State) (records : List CellRecord) (status : Status),
    exec .traverse s = .next t → t.response = .traversal records status →
    (∀ r ∈ records,
      r.cursorCell.map (fun c => c.toNat) =
        if s.block.cursorVisible then some (specCursorCell s.block.cursorOffset) else none) ∧
    (∀ r ∈ records, s.block.globalDirty = true ∨ dirtyAt s.block.dirtyCell r.cellIndex = true) ∧
    ∀ c, dirtyAt t.block.dirtyCell c = true → dirtyAt s.block.dirtyCell c = true

/-- R167, R170, R179: the record of a delivered cell c holds buffer[2c] and buffer[2c + 1] as they stand before the
traversal, decoded under modeControlRegister. -/
def Obligations.RecordsDecodeTheCellsTwoBytes : Prop :=
  ∀ (s t : State) (records : List CellRecord) (status : Status),
    exec .traverse s = .next t → t.response = .traversal records status →
    ∀ r ∈ records,
      (r.character, r.flags) =
        decodeAttr (Memory.read s.block.buffer (2 * r.cellIndex.toNat))
          (Memory.read s.block.buffer (2 * r.cellIndex.toNat + 1)) s.block.modeControlRegister

/-- R169: the cells of a traversal's records ascend, so that none is delivered twice, and each was due. -/
def Obligations.RecordsAscendAndWereDue : Prop :=
  ∀ (s t : State) (records : List CellRecord) (status : Status),
    exec .traverse s = .next t → t.response = .traversal records status →
    (records.map (fun r => r.cellIndex.toNat)).Pairwise (· < ·) ∧
    ∀ r ∈ records, isDue s.block r.cellIndex = true

/-- R172: a record the visitor answers with 0 leaves its cell's flag false, whether or not it was set before. -/
def Obligations.AcceptedRecordsLeaveTheirCellsClean : Prop :=
  ∀ (s t : State) (records : List CellRecord) (status : Status) (k : Nat) (hk : k < records.length),
    exec .traverse s = .next t → t.response = .traversal records status → visitorAnswer s k = 0#32 →
    dirtyAt t.block.dirtyCell records[k].cellIndex = false

/-- R154, the spec's derived property (source §8, "Full-redraw-then-quiescence"): after RESET an accepting traversal
delivers all 2048 cells once, in index order, and a second one immediately after delivers none. That both return 0 is the
spec's reading (R174, D10; log 13). -/
def Obligations.FullRedrawThenQuiescence : Prop :=
  ∀ s r : State, exec .reset s = .next r → acceptsFirst r 2048 →
    ∃ t u records, exec .traverse r = .next t ∧ t.response = .traversal records 0#32 ∧
      records.map (fun x => x.cellIndex.toNat) = List.range 2048 ∧
      exec .traverse t = .next u ∧ u.response = .traversal [] 0#32

/-- R207 (source §8, "Abort semantics"): the traversal after an aborted one delivers the refused cell again, and every cell
where the first pass was a full redraw (R233). -/
def Obligations.RefusedCellIsDeliveredAgain : Prop :=
  ∀ (s t : State) (k : Nat) (hk : k < (dueCells s.block).length), abortsAt s k →
    exec .traverse s = .next t → acceptsFirst t (dueCells t.block).length →
    ∃ u records status, exec .traverse t = .next u ∧ u.response = .traversal records status ∧
      (∃ r ∈ records, r.cellIndex = (dueCells s.block)[k]) ∧
      (s.block.globalDirty = true → records.map (fun x => x.cellIndex.toNat) = List.range 2048)

/-- R127's consequence and R234, which the spec derives: after any IO_OUT, an accepting traversal delivers every cell and
leaves none marked, whatever cells the write marked. That it returns 0 is the spec's reading (R174, D10; log 13). -/
def Obligations.EveryPortWriteForcesAFullRedraw : Prop :=
  ∀ (s t : State) (i : Instr), i.isPortWrite = true → exec i s = .next t → acceptsFirst t 2048 →
    ∃ u records, exec .traverse t = .next u ∧ u.response = .traversal records 0#32 ∧
      records.map (fun x => x.cellIndex.toNat) = List.range 2048 ∧
      ∀ c, dirtyAt u.block.dirtyCell c = false

/-- What a traversal can show (R26, R28, R38): its result is the same from two states that agree on the buffer, the flags,
the renderer's answers, the cursor's visibility, the low 11 bits of cursorOffset and bit 5 of modeControlRegister. The other
bits of those registers, refreshToggle, crtAddressRegister and crtRegisterFile stay unseen. -/
def Obligations.TraverseShowsOnlyBit5OfModeAndTheMaskedCursor : Prop :=
  ∀ s s' t t' : State,
    s.block.buffer = s'.block.buffer → s.block.dirtyCell = s'.block.dirtyCell →
    s.block.globalDirty = s'.block.globalDirty → s.block.cursorVisible = s'.block.cursorVisible →
    specCursorCell s.block.cursorOffset = specCursorCell s'.block.cursorOffset →
    s.block.modeControlRegister.getLsbD 5 = s'.block.modeControlRegister.getLsbD 5 →
    s.answers = s'.answers → s.answersTaken = s'.answersTaken →
    exec .traverse s = .next t → exec .traverse s' = .next t' →
    t.response = t'.response ∧ t.block.dirtyCell = t'.block.dirtyCell ∧ t.block.globalDirty = t'.block.globalDirty

/-! ## The attribute decoder -/

/-- R175–R179 in closed form: the four blank bytes give a space (0x20, the spec's decision D11, log 12) and no flag; every other
byte keeps the character, and has U where its low three bits are 001, H by bit 3, B by bit 7 under mode bit 5, and I for
0x70, 0x78, 0xF0 and 0xF8. -/
def Obligations.AttributeDecoderInClosedForm : Prop :=
  ∀ ch attr mode : Byte,
    decodeAttr ch attr mode =
      if attr ∈ [0x00#8, 0x08#8, 0x80#8, 0x88#8] then (0x20#8, ⟨false, false, false, false⟩)
      else (ch, ⟨decide (attr.toNat % 8 = 1), attr.getLsbD 3, attr.getLsbD 7 && mode.getLsbD 5,
        decide (attr ∈ [0x70#8, 0x78#8, 0xF0#8, 0xF8#8])⟩)

/-- The decoder produces no set with both underline and inverse (95_test_vectors.md V20). A packed set has underline,
high-intensity, blink and inverse at bits 0, 1, 2 and 3 (R92); a packed cursor cell is 0x000 for NONE, and bit 11 with the
index in bits 10:0 for a cell (R93); and unpacking loses nothing. The packing is the spec's decision D12. -/
def Obligations.DecodedFlagsAndTheirPackedForm : Prop :=
  (∀ ch attr mode : Byte,
    ((decodeAttr ch attr mode).2.underline && (decodeAttr ch attr mode).2.inverse) = false) ∧
  (∀ f : Flags, f.pack.getLsbD 0 = f.underline ∧ f.pack.getLsbD 1 = f.highIntensity ∧
    f.pack.getLsbD 2 = f.blink ∧ f.pack.getLsbD 3 = f.inverse ∧ Flags.unpack f.pack = f) ∧
  packCursorCell none = 0x000#12 ∧
  (∀ c : CellIndex, (packCursorCell (some c)).getLsbD 11 = true ∧ (packCursorCell (some c)).toNat % 2048 = c.toNat) ∧
  (∀ c : Option CellIndex, unpackCursorCell (packCursorCell c) = c)

/-! ## Memory -/

/-- R52 (and R54: for every address, in the window or not): the offset the model computes is
(A - BASE_ADDR) mod 4096. -/
def Obligations.BufferOffsetIsTheNonNegativeRemainder : Prop :=
  ∀ (p : Params) (a : Addr), (bufferOffset p a).toNat = specOffset p a ∧ specOffset p a < 4096

/-- R53: addresses that differ by a multiple of 4096 reach the same byte, so that they read alike in every state and a write
through one is seen by a read through the other; a read through any other address sees what it saw before. -/
def Obligations.WritesAreSeenThroughEveryAlias : Prop :=
  ∀ (s : State) (a a' : Addr) (value : Byte), ∃ t v, exec (.memWrite a value) s = .next t ∧
    exec (.memRead a') s = .next { s with response := .byte v } ∧
    (a.toNat % 4096 = a'.toNat % 4096 →
      exec (.memRead a) s = .next { s with response := .byte v } ∧
      exec (.memRead a') t = .next { t with response := .byte value }) ∧
    (a.toNat % 4096 ≠ a'.toNat % 4096 → exec (.memRead a') t = .next { t with response := .byte v })

/-- The canonical form does its work: two frame buffers in it that read alike at every offset are the same list. -/
def Obligations.EqualContentsAreEqualMemories : Prop :=
  ∀ m m' : Memory, Memory.wf m → Memory.wf m' → (∀ o, o < 4096 → Memory.read m o = Memory.read m' o) → m = m'

/-- R22, R225: every fill of the 4096 bytes is some frame buffer in canonical form, so that statements about every state
are statements about every creation draw. -/
def Obligations.EveryFillIsAFrameBuffer : Prop :=
  ∀ fill : Nat → Byte, ∃ m : Memory, Memory.wf m ∧ ∀ o, o < 4096 → Memory.read m o = fill o

/-! ## Ports -/

/-- R124: no IO_IN sets globalDirty or any dirty flag; the only state it changes is refreshToggle, and only for port
0x3BA. -/
def Obligations.PortReadsChangeOnlyRefreshToggle : Prop :=
  ∀ (s : State) (i : Instr), i.isPortRead = true → ∃ t v, exec i s = .next t ∧ t.response = .byte v ∧
    t = { s with
      block := { s.block with refreshToggle := t.block.refreshToggle }
      response := t.response } ∧
    (i ≠ .inStatus → t.block.refreshToggle = s.block.refreshToggle)

/-- R125 (its last sentence is the spec's derivation): whatever operations other than status reads come between, the next
status read differs from the first in bits 3 and 0 and only there, and the one after that returns the first value again. -/
def Obligations.StatusReadsAlternate : Prop :=
  ∀ (ops ops' : List Instr) (s s1 s2 s3 s4 s5 : State), (∀ i ∈ ops, i ≠ .inStatus) → (∀ i ∈ ops', i ≠ .inStatus) →
    exec .inStatus s = .next s1 → runOps ops s1 = .next s2 → exec .inStatus s2 = .next s3 →
    runOps ops' s3 = .next s4 → exec .inStatus s4 = .next s5 →
    ∃ v, s1.response = .byte v ∧ s3.response = .byte (v ^^^ 0x09#8) ∧ v ^^^ 0x09#8 ≠ v ∧ s5.response = .byte v

/-- R120, R87: what a port read does, by the full 16-bit port number, from the transaction word on. The word's packing is
the spec's decision D5; that ports outside 0x3B0..0x3BF follow the same decode is its decision D20 (U17), log 20. -/
def Obligations.PortReadWordsFollowThePortMap : Prop :=
  ∀ (s : State) (rest : List Request) (port : Port) (d : Byte),
    s.requests = .word (packTxn 0x2#4 0#4 (port.setWidth 32) d) :: rest →
    step s =
      if port = 0x3BA#16 then
        .next { s with
          requests := rest
          block := { s.block with refreshToggle := s.block.refreshToggle ^^^ 0x09#8 }
          response := .byte (s.block.refreshToggle ^^^ 0x09#8) }
      else if port ∈ [0x3B1#16, 0x3B3#16, 0x3B5#16, 0x3B7#16] then
        .next { s with
          requests := rest
          response := .byte (crtEntry s.block.crtRegisterFile s.block.crtAddressRegister) }
      else .next { s with requests := rest, response := .byte 0x00#8 }

/-- R126, R88: what a port write does, by the full 16-bit port number, from the transaction word on; what a CRT data write
does is in the statements on R129 to R134. The word's packing is the spec's decision D5; that ports outside 0x3B0..0x3BF follow the
same decode is its decision D20 (U17), log 20. -/
def Obligations.PortWriteWordsFollowThePortMap : Prop :=
  ∀ (s : State) (rest : List Request) (port : Port) (d : Byte),
    s.requests = .word (packTxn 0x3#4 0#4 (port.setWidth 32) d) :: rest →
    step s =
      if port = 0x3B8#16 then
        .next { s with
          requests := rest
          block := { s.block with globalDirty := true, modeControlRegister := d }
          response := .noResult }
      else if port ∈ [0x3B1#16, 0x3B3#16, 0x3B5#16, 0x3B7#16] then
        .next { s with
          requests := rest
          block := crtDataWrite d { s.block with globalDirty := true }
          response := .noResult }
      else if port.toNat % 2 = 0 then
        .next { s with
          requests := rest
          block := { s.block with globalDirty := true, crtAddressRegister := d }
          response := .noResult }
      else .next { s with requests := rest, block := { s.block with globalDirty := true }, response := .noResult }

/-- R98 `setcursor n`, the spec's pseudo-operation (D18), by R127, R129, R132, R133 and R135: cursorOffset becomes n (R58),
entry 0x0E holds n's high byte and entry 0x0F its low byte, register 0x0F stays selected and globalDirty is set. The cells of
the old offset, of the offset between the two writes (n's high byte over the old low byte) and of n are marked, and no
others. Nothing else changes. -/
def Obligations.SetCursorPlacesTheCursor : Prop :=
  ∀ (s : State) (n : BitVec 16), ∃ t, runOps (Pseudo.expand s.params (.setCursor n)) s = .next t ∧
    (∀ i, (crtEntry t.block.crtRegisterFile i).toNat =
      if i = 0x0E#8 then n.toNat / 256 else if i = 0x0F#8 then n.toNat % 256
      else (crtEntry s.block.crtRegisterFile i).toNat) ∧
    (∀ c, dirtyAt t.block.dirtyCell c =
      (dirtyAt s.block.dirtyCell c || decide (c.toNat = specCursorCell s.block.cursorOffset) ||
        decide (c.toNat = (n.toNat / 256 * 256 + s.block.cursorOffset.toNat % 256) % 2048) ||
        decide (c.toNat = specCursorCell n))) ∧
    t = { s with
      block := { s.block with
        globalDirty := true
        crtAddressRegister := 0x0F#8
        crtRegisterFile := t.block.crtRegisterFile
        cursorOffset := n
        dirtyCell := t.block.dirtyCell }
      response := .noResult }

/-- The readback hazard, which R229 derives: after RESET, `crtr i` (R98, D18) returns what entry i held before, whatever i,
and not the cursor state in effect. That RESET keeps the entries is the spec's decision D8 (R152), the model's log 14. -/
def Obligations.ReadbackAfterResetIsTheOldEntry : Prop :=
  ∀ (s : State) (i : Byte), ∃ t, runOps (.reset :: Pseudo.expand s.params (.crtr i)) s = .next t ∧
    t.response = .byte (crtEntry s.block.crtRegisterFile i) ∧ t.block.cursorOffset = 0#16 ∧
    t.block.cursorVisible = true

/-! ## Encoding -/

/-- Every well-formed operation is what the decoder reads from its word, with every operand (R80–R88; the word is the
spec's decision D5). -/
def Obligations.DecodeOfEncodeIsTheOperation : Prop :=
  ∀ (addrWidth : Nat) (i : Instr), i.wellFormed addrWidth = true → decode addrWidth (encode i) = .ok i

/-- What the decoder reads is well-formed, and the operation's own word agrees with the word read on every bit that R85
does not ignore. -/
def Obligations.DecodedWordsDifferOnlyInIgnoredBits : Prop :=
  ∀ (addrWidth : Nat) (t : Txn) (i : Instr), decode addrWidth t = .ok i →
    i.wellFormed addrWidth = true ∧ encode i &&& i.careMask = t &&& i.careMask

/-- R86: the operation decoded is the one of the first row of the opcode table that takes the word; a word that no row
takes is refused, and a word of some row is refused only for an address above ADDR_WIDTH (R82 (c)). -/
def Obligations.DecoderFollowsTheFirstRowOfTheTable : Prop :=
  ∀ (addrWidth : Nat) (t : Txn),
    match decode addrWidth t with
    | .ok i => (firstRow t).map (fun r => r.mnemonic) = some i.mnemonic
    | .error (.wideAddress _) => (firstRow t).isSome = true
    | .error _ => firstRow t = none

/-- R82 (the spec's decision D6): the words refused are those with K in 0x8..0xF, or Z not 0, or a memory address of
ADDR_WIDTH bits or more, or a port of more than 16 bits, and no others. -/
def Obligations.RefusedWordsAreExactlyTheFourCases : Prop :=
  ∀ (addrWidth : Nat) (t : Txn),
    (∃ e, decode addrWidth t = .error e) ↔
      (8 ≤ t.toNat / 2 ^ 44 ∨ t.toNat / 2 ^ 40 % 16 ≠ 0 ∨
        (t.toNat / 2 ^ 44 < 2 ∧ 2 ^ addrWidth ≤ t.toNat / 2 ^ 8 % 2 ^ 32) ∨
        ((t.toNat / 2 ^ 44 = 2 ∨ t.toNat / 2 ^ 44 = 3) ∧ 2 ^ 16 ≤ t.toNat / 2 ^ 8 % 2 ^ 32))

/-- Words written out from 95_test_vectors.md decode to the operations it names. -/
def Obligations.SpecWordsDecodeToTheirOperations : Prop :=
  decode 20 0x10000B7FFF5A#48 = .ok (.memWrite 0xB7FFF#32 0x5A#8) ∧
  decode 20 0x00000FFFFF00#48 = .ok (.memRead 0xFFFFF#32) ∧
  decode 20 0x20000003B300#48 = .ok (.inCrtData 1#2) ∧
  decode 20 0x30000003B7FF#48 = .ok (.outCrtData 3#2 0xFF#8) ∧
  decode 20 0x30000003BA0E#48 = .ok (.outCrtAddr 0x3BA#16 0x0E#8) ∧
  decode 20 0x4000000000FF#48 = .ok .reset ∧
  decode 20 0x500000123400#48 = .ok .traverse ∧
  decode 20 0x70FFFFFFFFFF#48 = .ok .identify ∧
  decode 20 0x000010000000#48 = .error (.wideAddress 0x100000#32)

/-! ## The step, and the machine as a whole -/

/-- A step runs the operation that the next transaction word spells, from the state without that request (R62, R63). -/
def Obligations.StepRunsTheDecodedOperation : Prop :=
  ∀ (s : State) (t : Txn) (rest : List Request) (i : Instr),
    s.requests = .word t :: rest → decode s.params.addrWidth t = .ok i →
    step s = exec i { s with requests := rest }

/-- What the block does not accept is refused under its own name: a word that spells no operation (R82, D6), an access wider
than a byte (R59, D4), an operation presented while another is in progress (R211, D9). How a request says so is the model's
choice (logs 9, 10, 11). -/
def Obligations.StepRefusesWhatTheBlockDoesNotAdmit : Prop :=
  (∀ (s : State) (t : Txn) (rest : List Request) (e : DecodeError),
    s.requests = .word t :: rest → decode s.params.addrWidth t = .error e → step s = .refused (.undecodable e)) ∧
  (∀ (s : State) (t : Txn) (rest : List Request),
    s.requests = .wide t :: rest → step s = .refused .wideAccess) ∧
  (∀ (s : State) (t : Txn) (rest : List Request),
    s.requests = .overlapping t :: rest → step s = .refused .overlappingOperation)

/-- With nothing presented, every field persists (R210, R217). That such a step answers the same state is the model's
choice (log 5). -/
def Obligations.IdleStepChangesNothing : Prop := ∀ s : State, s.requests = [] → step s = .next s

/-- Every operation of the block completes, and there is no fault to end one (R200). That it does so from every state,
installed and reset or not, is the spec's decision D21 (R228), log 21. That none touches the parameters or the host's queue
is about the model's own fields (logs 1, 4). -/
def Obligations.EveryOperationCompletes : Prop :=
  (∀ (i : Instr) (s : State), ∃ t, exec i s = .next t ∧ t.params = s.params ∧ t.requests = s.requests) ∧
  ∀ _ : Fault, False

/-- The state after reset: RESET's four values (R151, R226), in a state of the invariant. -/
def Obligations.ResetStateHoldsTheResetValues : Prop :=
  State.reset.Inv ∧ State.reset.block.cursorVisible = true ∧ State.reset.block.cursorOffset = 0#16 ∧
    State.reset.block.globalDirty = true ∧ ∀ c, dirtyAt State.reset.block.dirtyCell c = true

/-- Every step keeps the invariant: the frame buffer's canonical form with 4096 offsets (R22), and legal parameters (R6). -/
def Obligations.StepKeepsTheInvariant : Prop := ∀ s t : State, s.Inv → step s = .next t → t.Inv

/-- globalDirty falls only in a step that delivered all 2048 cells, the visitor accepting every one (R39), and then no cell
is left marked, as R173 derives. -/
def Obligations.GlobalDirtyFallsOnlyAfterAFullDelivery : Prop :=
  ∀ s t : State, step s = .next t → s.block.globalDirty = true → t.block.globalDirty = false →
    ∃ records status, t.response = .traversal records status ∧
      records.map (fun r => r.cellIndex.toNat) = List.range 2048 ∧ acceptsFirst s 2048 ∧
      ∀ c, dirtyAt t.block.dirtyCell c = false

/-- R23, R67: a dirty flag falls only in a step that delivered its cell to the renderer, and the renderer accepted it. -/
def Obligations.DirtyFlagsFallOnlyByDelivery : Prop :=
  ∀ (s t : State) (c : CellIndex), step s = .next t → dirtyAt s.block.dirtyCell c = true →
    dirtyAt t.block.dirtyCell c = false →
    ∃ records status, t.response = .traversal records status ∧
      ∃ (k : Nat) (hk : k < records.length), records[k].cellIndex = c ∧ visitorAnswer s k = 0#32

/-- R23, R180: a dirty flag rises only by a MEM_WRITE to the cell, by a write of a cursor register that bracketed the cell,
or by RESET. -/
def Obligations.DirtyFlagsRiseOnlyByTheirThreeCauses : Prop :=
  ∀ (s t : State) (i : Instr) (c : CellIndex), exec i s = .next t → dirtyAt s.block.dirtyCell c = false →
    dirtyAt t.block.dirtyCell c = true →
    (∃ a v, i = .memWrite a v ∧ c.toNat = specOffset s.params a / 2) ∨
    (∃ n v, i = .outCrtData n v ∧ s.block.crtAddressRegister ∈ [0x0A#8, 0x0E#8, 0x0F#8] ∧
      (c.toNat = specCursorCell s.block.cursorOffset ∨ c.toNat = specCursorCell t.block.cursorOffset)) ∨
    i = .reset

/-- R22–R30: which operations can change each field of the block. globalDirty rises by an IO_OUT or RESET and falls by
TRAVERSE only (R24); the dirty flags change by MEM_WRITE, a write of a cursor register, RESET and TRAVERSE only (R23). That
RESET keeps the fields it does not name is the spec's decision D8 (R152), log 14. -/
def Obligations.EachFieldChangesOnlyByItsOwnOperations : Prop :=
  ∀ (s t : State) (i : Instr), exec i s = .next t →
    (t.block.buffer ≠ s.block.buffer → ∃ a v, i = .memWrite a v) ∧
    (t.block.dirtyCell ≠ s.block.dirtyCell →
      (∃ a v, i = .memWrite a v) ∨
      (∃ n v, i = .outCrtData n v ∧ s.block.crtAddressRegister ∈ [0x0A#8, 0x0E#8, 0x0F#8]) ∨
      i = .reset ∨ i = .traverse) ∧
    (t.block.globalDirty = true → s.block.globalDirty = false → i.isPortWrite = true ∨ i = .reset) ∧
    (t.block.globalDirty = false → s.block.globalDirty = true → i = .traverse) ∧
    (t.block.cursorVisible ≠ s.block.cursorVisible →
      (∃ n v, i = .outCrtData n v ∧ s.block.crtAddressRegister = 0x0A#8) ∨ i = .reset) ∧
    (t.block.cursorOffset ≠ s.block.cursorOffset →
      (∃ n v, i = .outCrtData n v ∧
        (s.block.crtAddressRegister = 0x0E#8 ∨ s.block.crtAddressRegister = 0x0F#8)) ∨ i = .reset) ∧
    (t.block.refreshToggle ≠ s.block.refreshToggle → i = .inStatus) ∧
    (t.block.modeControlRegister ≠ s.block.modeControlRegister → ∃ v, i = .outMode v) ∧
    (t.block.crtAddressRegister ≠ s.block.crtAddressRegister → ∃ p v, i = .outCrtAddr p v) ∧
    (t.block.crtRegisterFile ≠ s.block.crtRegisterFile → ∃ n v, i = .outCrtData n v)

/-- R27: bits 7:4 and 2:1 of refreshToggle never change, and whether bits 3 and 0 are equal never changes (R35). -/
def Obligations.RefreshToggleKeepsItsFixedBits : Prop :=
  ∀ s t : State, step s = .next t →
    t.block.refreshToggle &&& 0xF6#8 = s.block.refreshToggle &&& 0xF6#8 ∧
    (t.block.refreshToggle.getLsbD 0 == t.block.refreshToggle.getLsbD 3) =
      (s.block.refreshToggle.getLsbD 0 == s.block.refreshToggle.getLsbD 3)
end

