-- ==== Sys2Proof/Laws/Dirty.lean ====
section
/-! SUPPORT. The dirty tracker's and the CRT register file's laws: read after write, and extensionality. -/

namespace Sys2Proof.Machine

theorem cell_ne_toNat {c c' : CellIndex} : c.toNat = c'.toNat ↔ c = c' := BitVec.toNat_inj

theorem cell_lt (c : CellIndex) : c.toNat < 2048 := c.isLt

@[simp] theorem tableGet_tableSet {α : Type} {n : Nat} (t : Table α n) (i : Nat) (v : α) (j : Nat) (h : j < n) :
    tableGet (tableSet t i v) j h = if i = j then v else tableGet t j h := by
  simp [tableGet, tableSet, List.getElem_set]

@[simp] theorem tableGet_fill {α : Type} {n : Nat} (v : α) (j : Nat) (h : j < n) : tableGet (Table.fill n v) j h = v := by
  simp [tableGet, Table.fill]

theorem table_ext {α : Type} {n : Nat} {t t' : Table α n} (h : ∀ i (hi : i < n), tableGet t i hi = tableGet t' i hi) :
    t = t' := by
  obtain ⟨l, hl⟩ := t
  obtain ⟨l', hl'⟩ := t'
  obtain rfl : l = l' := List.ext_getElem (hl.trans hl'.symm) fun i h1 _ => h i (hl ▸ h1)
  rfl

/-- Marking a cell sets its flag and no other. -/
@[simp] theorem dirtyAt_markCell (d : DirtyMap) (c c' : CellIndex) :
    dirtyAt (markCell d c) c' = (dirtyAt d c' || decide (c' = c)) := by
  rw [dirtyAt, markCell, tableGet_tableSet, dirtyAt]
  by_cases h : c' = c
  · simp [h]
  · rw [if_neg fun e => h (BitVec.toNat_inj.mp e).symm]; simp [h]

@[simp] theorem dirtyAt_allDirty (c : CellIndex) : dirtyAt allDirty c = true := tableGet_fill ..

@[simp] theorem dirtyAt_allClean (c : CellIndex) : dirtyAt allClean c = false := tableGet_fill ..

/-- Two maps that say the same of every cell are the same. -/
theorem dirtyMap_ext {d d' : DirtyMap} (h : ∀ c, dirtyAt d c = dirtyAt d' c) : d = d' := by
  refine table_ext fun i hi => ?_
  have hc : (BitVec.ofNat 11 i).toNat = i := by rw [BitVec.toNat_ofNat, Nat.mod_eq_of_lt hi]
  simpa only [dirtyAt, hc] using h (BitVec.ofNat 11 i)

/-- A write to an entry of the CRT register file changes that entry and no other. -/
@[simp] theorem crtEntry_setCrtEntry (f : CrtFile) (i v i' : Byte) :
    crtEntry (setCrtEntry f i v) i' = if i' = i then v else crtEntry f i' := by
  have h : i.toNat = i'.toNat ↔ i' = i := by rw [BitVec.toNat_inj, eq_comm]
  simp only [crtEntry, setCrtEntry, tableGet_tableSet, h]

end Sys2Proof.Machine
end

