-- ==== Sys2Proof/Laws/State.lean ====
section
/-! SUPPORT. One lemma per field per update of State and of the block's record, so that no proof unfolds an update. -/

namespace Sys2Proof.Machine

variable (s : State) (b : VideoAdapterState)

/-! ## respond and takeAnswers -/

@[simp] theorem respond_block (r : Response) : (respond s b r).block = b := rfl
@[simp] theorem respond_params (r : Response) : (respond s b r).params = s.params := rfl
@[simp] theorem respond_requests (r : Response) : (respond s b r).requests = s.requests := rfl
@[simp] theorem respond_answers (r : Response) : (respond s b r).answers = s.answers := rfl
@[simp] theorem respond_answersTaken (r : Response) : (respond s b r).answersTaken = s.answersTaken := rfl
@[simp] theorem respond_response (r : Response) : (respond s b r).response = r := rfl

@[simp] theorem takeAnswers_block (n : Nat) : (takeAnswers s n).block = s.block := rfl
@[simp] theorem takeAnswers_params (n : Nat) : (takeAnswers s n).params = s.params := rfl
@[simp] theorem takeAnswers_requests (n : Nat) : (takeAnswers s n).requests = s.requests := rfl
@[simp] theorem takeAnswers_answers (n : Nat) : (takeAnswers s n).answers = s.answers.drop n := rfl
@[simp] theorem takeAnswers_answersTaken (n : Nat) : (takeAnswers s n).answersTaken = s.answersTaken + n := rfl
@[simp] theorem takeAnswers_response (n : Nat) : (takeAnswers s n).response = s.response := rfl

/-! ## Updates of the block -/

@[simp] theorem setGlobalDirty_buffer : (setGlobalDirty b).buffer = b.buffer := rfl
@[simp] theorem setGlobalDirty_dirtyCell : (setGlobalDirty b).dirtyCell = b.dirtyCell := rfl
@[simp] theorem setGlobalDirty_globalDirty : (setGlobalDirty b).globalDirty = true := rfl
@[simp] theorem setGlobalDirty_cursorVisible : (setGlobalDirty b).cursorVisible = b.cursorVisible := rfl
@[simp] theorem setGlobalDirty_cursorOffset : (setGlobalDirty b).cursorOffset = b.cursorOffset := rfl
@[simp] theorem setGlobalDirty_refreshToggle : (setGlobalDirty b).refreshToggle = b.refreshToggle := rfl
@[simp] theorem setGlobalDirty_modeControlRegister : (setGlobalDirty b).modeControlRegister = b.modeControlRegister := rfl
@[simp] theorem setGlobalDirty_crtAddressRegister : (setGlobalDirty b).crtAddressRegister = b.crtAddressRegister := rfl
@[simp] theorem setGlobalDirty_crtRegisterFile : (setGlobalDirty b).crtRegisterFile = b.crtRegisterFile := rfl

@[simp] theorem markCursorCell_buffer : (markCursorCell b).buffer = b.buffer := rfl
@[simp] theorem markCursorCell_dirtyCell : (markCursorCell b).dirtyCell = markCell b.dirtyCell (cursorIndex b) := rfl
@[simp] theorem markCursorCell_globalDirty : (markCursorCell b).globalDirty = b.globalDirty := rfl
@[simp] theorem markCursorCell_cursorVisible : (markCursorCell b).cursorVisible = b.cursorVisible := rfl
@[simp] theorem markCursorCell_cursorOffset : (markCursorCell b).cursorOffset = b.cursorOffset := rfl
@[simp] theorem markCursorCell_refreshToggle : (markCursorCell b).refreshToggle = b.refreshToggle := rfl
@[simp] theorem markCursorCell_modeControlRegister : (markCursorCell b).modeControlRegister = b.modeControlRegister := rfl
@[simp] theorem markCursorCell_crtAddressRegister : (markCursorCell b).crtAddressRegister = b.crtAddressRegister := rfl
@[simp] theorem markCursorCell_crtRegisterFile : (markCursorCell b).crtRegisterFile = b.crtRegisterFile := rfl

@[simp] theorem storeByte_buffer (o : BufferOffset) (v : Byte) : (storeByte b o v).buffer = b.buffer.write o.toNat v := rfl
@[simp] theorem storeByte_dirtyCell (o : BufferOffset) (v : Byte) : (storeByte b o v).dirtyCell = markCell b.dirtyCell (owningCell o) := rfl
@[simp] theorem storeByte_globalDirty (o : BufferOffset) (v : Byte) : (storeByte b o v).globalDirty = b.globalDirty := rfl
@[simp] theorem storeByte_cursorVisible (o : BufferOffset) (v : Byte) : (storeByte b o v).cursorVisible = b.cursorVisible := rfl
@[simp] theorem storeByte_cursorOffset (o : BufferOffset) (v : Byte) : (storeByte b o v).cursorOffset = b.cursorOffset := rfl
@[simp] theorem storeByte_refreshToggle (o : BufferOffset) (v : Byte) : (storeByte b o v).refreshToggle = b.refreshToggle := rfl
@[simp] theorem storeByte_modeControlRegister (o : BufferOffset) (v : Byte) : (storeByte b o v).modeControlRegister = b.modeControlRegister := rfl
@[simp] theorem storeByte_crtAddressRegister (o : BufferOffset) (v : Byte) : (storeByte b o v).crtAddressRegister = b.crtAddressRegister := rfl
@[simp] theorem storeByte_crtRegisterFile (o : BufferOffset) (v : Byte) : (storeByte b o v).crtRegisterFile = b.crtRegisterFile := rfl

@[simp] theorem resetBlock_buffer : (resetBlock b).buffer = b.buffer := rfl
@[simp] theorem resetBlock_dirtyCell : (resetBlock b).dirtyCell = allDirty := rfl
@[simp] theorem resetBlock_globalDirty : (resetBlock b).globalDirty = true := rfl
@[simp] theorem resetBlock_cursorVisible : (resetBlock b).cursorVisible = true := rfl
@[simp] theorem resetBlock_cursorOffset : (resetBlock b).cursorOffset = 0x0000#16 := rfl
@[simp] theorem resetBlock_refreshToggle : (resetBlock b).refreshToggle = b.refreshToggle := rfl
@[simp] theorem resetBlock_modeControlRegister : (resetBlock b).modeControlRegister = b.modeControlRegister := rfl
@[simp] theorem resetBlock_crtAddressRegister : (resetBlock b).crtAddressRegister = b.crtAddressRegister := rfl
@[simp] theorem resetBlock_crtRegisterFile : (resetBlock b).crtRegisterFile = b.crtRegisterFile := rfl

@[simp] theorem moveCursor_buffer (offset : BitVec 16) : (moveCursor offset b).buffer = b.buffer := rfl
@[simp] theorem moveCursor_globalDirty (offset : BitVec 16) : (moveCursor offset b).globalDirty = b.globalDirty := rfl
@[simp] theorem moveCursor_cursorVisible (offset : BitVec 16) : (moveCursor offset b).cursorVisible = b.cursorVisible := rfl
@[simp] theorem moveCursor_cursorOffset (offset : BitVec 16) : (moveCursor offset b).cursorOffset = offset := rfl
@[simp] theorem moveCursor_refreshToggle (offset : BitVec 16) : (moveCursor offset b).refreshToggle = b.refreshToggle := rfl
@[simp] theorem moveCursor_modeControlRegister (offset : BitVec 16) : (moveCursor offset b).modeControlRegister = b.modeControlRegister := rfl
@[simp] theorem moveCursor_crtAddressRegister (offset : BitVec 16) : (moveCursor offset b).crtAddressRegister = b.crtAddressRegister := rfl
@[simp] theorem moveCursor_crtRegisterFile (offset : BitVec 16) : (moveCursor offset b).crtRegisterFile = b.crtRegisterFile := rfl

@[simp] theorem afterTraverse_buffer : (afterTraverse s).buffer = s.block.buffer := rfl
@[simp] theorem afterTraverse_dirtyCell : (afterTraverse s).dirtyCell = scannedFlags s := rfl
@[simp] theorem afterTraverse_globalDirty : (afterTraverse s).globalDirty = (s.block.globalDirty && (scanBlock s).aborted.isSome) := rfl
@[simp] theorem afterTraverse_cursorVisible : (afterTraverse s).cursorVisible = s.block.cursorVisible := rfl
@[simp] theorem afterTraverse_cursorOffset : (afterTraverse s).cursorOffset = s.block.cursorOffset := rfl
@[simp] theorem afterTraverse_refreshToggle : (afterTraverse s).refreshToggle = s.block.refreshToggle := rfl
@[simp] theorem afterTraverse_modeControlRegister : (afterTraverse s).modeControlRegister = s.block.modeControlRegister := rfl
@[simp] theorem afterTraverse_crtAddressRegister : (afterTraverse s).crtAddressRegister = s.block.crtAddressRegister := rfl
@[simp] theorem afterTraverse_crtRegisterFile : (afterTraverse s).crtRegisterFile = s.block.crtRegisterFile := rfl

/-! ## The scan's result -/

@[simp] theorem deliver_records (r : CellRecord) (x : ScanResult) : (x.deliver r).records = r :: x.records := rfl
@[simp] theorem deliver_aborted (r : CellRecord) (x : ScanResult) : (x.deliver r).aborted = x.aborted := rfl
@[simp] theorem deliver_flags (r : CellRecord) (x : ScanResult) : (x.deliver r).flags = false :: x.flags := rfl
@[simp] theorem pass_records (f : Bool) (x : ScanResult) : (x.pass f).records = x.records := rfl
@[simp] theorem pass_aborted (f : Bool) (x : ScanResult) : (x.pass f).aborted = x.aborted := rfl
@[simp] theorem pass_flags (f : Bool) (x : ScanResult) : (x.pass f).flags = f :: x.flags := rfl

/-! ## The host's next word -/

@[simp] theorem withFetchWord_requests (nbits w : Nat) :
    (s.withFetchWord nbits w).requests = .word (tableTxn nbits w) :: s.requests := rfl
@[simp] theorem withFetchWord_block (nbits w : Nat) : (s.withFetchWord nbits w).block = s.block := rfl
@[simp] theorem withFetchWord_params (nbits w : Nat) : (s.withFetchWord nbits w).params = s.params := rfl
@[simp] theorem withFetchWord_answers (nbits w : Nat) : (s.withFetchWord nbits w).answers = s.answers := rfl
@[simp] theorem withFetchWord_answersTaken (nbits w : Nat) :
    (s.withFetchWord nbits w).answersTaken = s.answersTaken := rfl
@[simp] theorem withFetchWord_response (nbits w : Nat) : (s.withFetchWord nbits w).response = s.response := rfl

end Sys2Proof.Machine
end

