-- ==== Sys2Proof/Laws/Cursor.lean ====
section
/-! SUPPORT. The cursor's laws: the masked cell as a number, the two byte merges, and which cells the bracket marks. -/

namespace Sys2Proof.Machine

/-- The cursor's cell is cursorOffset modulo 2048 (10_state.md R37). -/
theorem cursorIndex_toNat (b : VideoAdapterState) : (cursorIndex b).toNat = b.cursorOffset.toNat % 2048 := by
  have h : (0x7FF#16).toNat = 2 ^ 11 - 1 := by decide
  rw [cursorIndex, BitVec.toNat_setWidth, BitVec.toNat_and, h, Nat.and_two_pow_sub_one_eq_mod, Nat.mod_mod]

theorem cursorIndex_eq {b b' : VideoAdapterState} (h : b.cursorOffset = b'.cursorOffset) :
    cursorIndex b = cursorIndex b' := by rw [cursorIndex, cursorIndex, h]

theorem lowMask_bit : ∀ j, j < 16 → (0x00FF#16).getLsbD j = decide (j < 8) := by decide

theorem highMask_bit : ∀ j, j < 16 → (0xFF00#16).getLsbD j = decide (8 ≤ j) := by decide

/-- R132's merge: the value in bits 15:8, the old low byte in bits 7:0. -/
theorem withCursorHigh_bit (offset : BitVec 16) (value : Byte) (j : Nat) :
    (withCursorHigh offset value).getLsbD j = if j < 8 then offset.getLsbD j else value.getLsbD (j - 8) := by
  by_cases hj : j < 16
  · rw [withCursorHigh, BitVec.getLsbD_or, BitVec.getLsbD_and, lowMask_bit j hj, BitVec.getLsbD_shiftLeft,
      BitVec.getLsbD_setWidth]
    by_cases h8 : j < 8
    · simp [h8]
    · simp [h8, hj, show j - 8 < 16 by omega]
  · rw [BitVec.getLsbD_of_ge _ _ (by omega), if_neg (by omega), BitVec.getLsbD_of_ge _ _ (by omega)]

/-- R133's merge: the old high byte in bits 15:8, the value in bits 7:0. -/
theorem withCursorLow_bit (offset : BitVec 16) (value : Byte) (j : Nat) :
    (withCursorLow offset value).getLsbD j = if j < 8 then value.getLsbD j else offset.getLsbD j := by
  by_cases hj : j < 16
  · rw [withCursorLow, BitVec.getLsbD_or, BitVec.getLsbD_and, highMask_bit j hj, BitVec.getLsbD_setWidth]
    by_cases h8 : j < 8
    · simp [h8, hj, show ¬ 8 ≤ j by omega]
    · rw [BitVec.getLsbD_of_ge value j (by omega)]
      simp [h8, show 8 ≤ j by omega]
  · rw [BitVec.getLsbD_of_ge _ _ (by omega), if_neg (by omega), BitVec.getLsbD_of_ge _ _ (by omega)]

theorem withCursorHigh_eq_append (offset : BitVec 16) (value : Byte) :
    withCursorHigh offset value = value ++ offset.setWidth 8 := by
  apply BitVec.eq_of_getLsbD_eq
  intro j hj
  rw [withCursorHigh_bit, BitVec.getLsbD_append]
  by_cases h8 : j < 8 <;> simp [h8]

theorem withCursorLow_eq_append (offset : BitVec 16) (value : Byte) :
    withCursorLow offset value = offset.extractLsb' 8 8 ++ value := by
  apply BitVec.eq_of_getLsbD_eq
  intro j hj
  rw [withCursorLow_bit, BitVec.getLsbD_append]
  by_cases h8 : j < 8
  · simp [h8]
  · simp [h8, show j - 8 < 8 by omega, show 8 + (j - 8) = j by omega]

/-- The bracket marks the old cell and the new one, and no other (R132, R133). -/
@[simp] theorem dirtyAt_moveCursor (offset : BitVec 16) (b : VideoAdapterState) (c : CellIndex) :
    dirtyAt (moveCursor offset b).dirtyCell c =
      (dirtyAt b.dirtyCell c || decide (c = cursorIndex b) ||
        decide (c = cursorIndex { b with cursorOffset := offset })) := by
  rw [moveCursor, markCursorCell_dirtyCell, dirtyAt_markCell]
  simp only [markCursorCell_dirtyCell, dirtyAt_markCell]
  rfl

end Sys2Proof.Machine
end

