-- ==== Sys2Proof/Laws/Encoding.lean ====
section
/-! SUPPORT. The transaction word's laws: the four fields of a packed word, a word as its four fields, and the decoder's
field tests beside the ones WellFormed states. -/

namespace Sys2Proof

theorem packTxn_toNat (k z : BitVec 4) (a : Addr) (d : Byte) :
    (packTxn k z a d).toNat = k.toNat * 2 ^ 44 + z.toNat * 2 ^ 40 + a.toNat * 2 ^ 8 + d.toNat := by
  have hz := z.isLt; have ha := a.isLt; have hd := d.isLt
  rw [packTxn]
  simp only [BitVec.toNat_append]
  rw [← Nat.shiftLeft_add_eq_or_of_lt hz, ← Nat.shiftLeft_add_eq_or_of_lt ha, ← Nat.shiftLeft_add_eq_or_of_lt hd]
  simp only [Nat.shiftLeft_eq]
  omega

theorem field_toNat (t : Txn) (start len : Nat) : (t.extractLsb' start len).toNat = t.toNat / 2 ^ start % 2 ^ len := by
  rw [BitVec.extractLsb'_toNat, Nat.shiftRight_eq_div_pow]

@[simp] theorem kindField_packTxn (k z : BitVec 4) (a : Addr) (d : Byte) : kindField (packTxn k z a d) = k := by
  have hk := k.isLt; have hz := z.isLt; have ha := a.isLt; have hd := d.isLt
  apply BitVec.eq_of_toNat_eq
  rw [kindField, field_toNat, packTxn_toNat]
  omega

@[simp] theorem zField_packTxn (k z : BitVec 4) (a : Addr) (d : Byte) : zField (packTxn k z a d) = z := by
  have hk := k.isLt; have hz := z.isLt; have ha := a.isLt; have hd := d.isLt
  apply BitVec.eq_of_toNat_eq
  rw [zField, field_toNat, packTxn_toNat]
  omega

@[simp] theorem aField_packTxn (k z : BitVec 4) (a : Addr) (d : Byte) : aField (packTxn k z a d) = a := by
  have hk := k.isLt; have hz := z.isLt; have ha := a.isLt; have hd := d.isLt
  apply BitVec.eq_of_toNat_eq
  rw [aField, field_toNat, packTxn_toNat]
  omega

@[simp] theorem dField_packTxn (k z : BitVec 4) (a : Addr) (d : Byte) : dField (packTxn k z a d) = d := by
  have hk := k.isLt; have hz := z.isLt; have ha := a.isLt; have hd := d.isLt
  apply BitVec.eq_of_toNat_eq
  rw [dField, field_toNat, packTxn_toNat]
  omega

/-- Every word is the packing of its own fields. -/
theorem packTxn_fields (t : Txn) : packTxn (kindField t) (zField t) (aField t) (dField t) = t := by
  have ht := t.isLt
  apply BitVec.eq_of_toNat_eq
  rw [packTxn_toNat, kindField, zField, aField, dField, field_toNat, field_toNat, field_toNat, field_toNat]
  omega

/-- Masking a packed word masks its fields. -/
theorem packTxn_and (k z k' z' : BitVec 4) (a a' : Addr) (d d' : Byte) :
    packTxn k z a d &&& packTxn k' z' a' d' = packTxn (k &&& k') (z &&& z') (a &&& a') (d &&& d') := by
  apply BitVec.eq_of_getLsbD_eq
  intro i hi
  simp only [packTxn, BitVec.getLsbD_and, BitVec.getLsbD_append]
  split
  · rfl
  · split
    · rfl
    · split <;> rfl

/-- Packed words are equal where all four fields are. -/
theorem packTxn_inj {k z k' z' : BitVec 4} {a a' : Addr} {d d' : Byte} :
    packTxn k z a d = packTxn k' z' a' d' ↔ k = k' ∧ z = z' ∧ a = a' ∧ d = d' := by
  constructor
  · intro h
    exact ⟨by simpa using congrArg kindField h, by simpa using congrArg zField h, by simpa using congrArg aField h,
      by simpa using congrArg dField h⟩
  · rintro ⟨rfl, rfl, rfl, rfl⟩; rfl

/-- The decoder's test of A's high bits is WellFormed's bound. -/
theorem withinAddrWidth_eq (addrWidth : Nat) (a : Addr) : withinAddrWidth addrWidth a = addressFits addrWidth a := by
  have h : (a >>> addrWidth = 0#32) ↔ a.toNat < 2 ^ addrWidth := by
    rw [← BitVec.toNat_inj, BitVec.toNat_ushiftRight, Nat.shiftRight_eq_div_pow]
    simp [Nat.div_eq_zero_iff]
  simp only [withinAddrWidth, addressFits, beq_eq_decide]
  exact decide_eq_decide.mpr h

/-- The port of an alias number has that alias number, and is a CRT data port. -/
theorem crtDataPort_spec : ∀ n : BitVec 2,
    crtDataAlias (crtDataPort n) = n ∧ matchesCrtData (crtDataPort n) = true ∧ isCrtDataPort (crtDataPort n) = true := by
  decide

/-- A port that is one of the four is the port of its own alias number. -/
theorem crtDataPort_alias {p : Port} (h : isCrtDataPort p = true) : crtDataPort (crtDataAlias p) = p := by
  simp only [isCrtDataPort, Bool.or_eq_true, beq_iff_eq] at h
  rcases h with ((rfl | rfl) | rfl) | rfl <;> decide

/-- A 16-bit port as field A passes R82 (d) and comes back. -/
@[simp] theorem decodePort_setWidth (p : Port) : decodePort (p.setWidth 32) = .ok p := by
  have h := p.isLt
  have ht : (p.setWidth 32).toNat = p.toNat := by rw [BitVec.toNat_setWidth]; omega
  rw [decodePort, if_pos (by omega)]
  congr 1
  apply BitVec.eq_of_toNat_eq
  rw [BitVec.toNat_setWidth, ht]
  omega

end Sys2Proof
end

