-- ==== Sys2Proof/Laws/Memory.lean ====
section
/-! SUPPORT. The frame buffer's laws: what a read sees after a write, and that every operation keeps the canonical form. -/

namespace Sys2Proof.Machine

@[simp] theorem Memory.read_nil (o : Nat) : Memory.read [] o = unlistedByte := rfl

theorem Memory.read_cons (k : Nat) (v : Byte) (m : Memory) (o : Nat) :
    Memory.read ((k, v) :: m) o = if k = o then v else Memory.read m o := rfl

/-- An offset that no pair lists reads as the unlisted byte. -/
theorem Memory.read_of_not_listed {m : Memory} {o : Nat} (h : ∀ e ∈ m, e.1 ≠ o) :
    Memory.read m o = unlistedByte := by
  induction m with
  | nil => rfl
  | cons e m ih =>
    obtain ⟨k, v⟩ := e
    rw [Memory.read_cons, if_neg (h (k, v) (by simp)), ih fun e he => h e (by simp [he])]

/-- Dropping every pair of an offset leaves the other offsets alone. -/
theorem Memory.read_filter_ne {m : Memory} {o o' : Nat} (h : o' ≠ o) :
    Memory.read (m.filter fun e => e.1 != o) o' = Memory.read m o' := by
  induction m with
  | nil => rfl
  | cons e m ih =>
    obtain ⟨k, v⟩ := e
    by_cases hk : k = o
    · subst hk; simp [Memory.read_cons, ih, h.symm]
    · simp [hk, Memory.read_cons, ih]

theorem Memory.read_insert {m : Memory} {o : Nat} (v : Byte) (h : ∀ e ∈ m, e.1 ≠ o) (o' : Nat) :
    Memory.read (Memory.insert o v m) o' = if o = o' then v else Memory.read m o' := by
  induction m with
  | nil => rfl
  | cons e m ih =>
    obtain ⟨k, w⟩ := e
    have hk : k ≠ o := h (k, w) (by simp)
    simp only [Memory.insert]
    split
    · rfl
    · rw [Memory.read_cons, ih fun e he => h e (by simp [he]), Memory.read_cons]
      by_cases h1 : k = o'
      · subst h1; simp [hk.symm]
      · simp [h1]

theorem Memory.not_listed_filter (m : Memory) (o : Nat) : ∀ e ∈ m.filter (fun e => e.1 != o), e.1 ≠ o := by
  intro e he; simpa using (List.mem_filter.mp he).2

/-- Read after write: the byte written at its offset, and every other offset as before. -/
@[simp] theorem Memory.read_write (m : Memory) (o : Nat) (v : Byte) (o' : Nat) :
    Memory.read (Memory.write m o v) o' = if o' = o then v else Memory.read m o' := by
  have hno := Memory.not_listed_filter m o
  unfold Memory.write
  by_cases ho : o' = o
  · subst ho
    by_cases hv : v = unlistedByte
    · simp [hv, Memory.read_of_not_listed hno]
    · simp [hv, Memory.read_insert v hno]
  · by_cases hv : v = unlistedByte
    · simp [hv, ho, Memory.read_filter_ne ho]
    · simp [hv, ho, Memory.read_insert v hno, Ne.symm ho, Memory.read_filter_ne ho]

theorem Memory.mem_insert {o : Nat} {v : Byte} {m : Memory} {e : Host.Cell} :
    e ∈ Memory.insert o v m ↔ e = (o, v) ∨ e ∈ m := by
  induction m with
  | nil => simp [Memory.insert]
  | cons x m ih =>
    obtain ⟨k, w⟩ := x
    simp only [Memory.insert]
    split
    · simp
    · simp [ih, or_left_comm]

theorem Memory.insert_rising {o : Nat} {v : Byte} {m : Memory} (h : m.Pairwise fun x y => x.1 < y.1)
    (hno : ∀ e ∈ m, e.1 ≠ o) : (Memory.insert o v m).Pairwise fun x y => x.1 < y.1 := by
  induction m with
  | nil => simp [Memory.insert]
  | cons x m ih =>
    obtain ⟨k, w⟩ := x
    have hk : k ≠ o := hno (k, w) (by simp)
    rw [List.pairwise_cons] at h
    simp only [Memory.insert]
    split
    · rename_i hlt
      refine List.pairwise_cons.mpr ⟨fun y hy => ?_, List.pairwise_cons.mpr h⟩
      rcases List.mem_cons.mp hy with rfl | hy
      · exact hlt
      · exact Nat.lt_trans hlt (h.1 y hy)
    · refine List.pairwise_cons.mpr ⟨fun y hy => ?_, ih h.2 fun e he => hno e (by simp [he])⟩
      rcases Memory.mem_insert.mp hy with rfl | hy
      · show k < o; omega
      · exact h.1 y hy

/-- A write below 4096 keeps the canonical form. -/
theorem Memory.write_wf {m : Memory} {o : Nat} (v : Byte) (ho : o < 4096) (h : Memory.wf m) :
    Memory.wf (Memory.write m o v) := by
  have hf : Memory.wf (m.filter fun e => e.1 != o) :=
    ⟨h.1.filter _, fun e he => h.2 e (List.mem_filter.mp he).1⟩
  unfold Memory.write
  by_cases hv : v = unlistedByte
  · simpa [hv] using hf
  · simp only [hv, if_false]
    refine ⟨Memory.insert_rising hf.1 (Memory.not_listed_filter m o), fun e he => ?_⟩
    rcases Memory.mem_insert.mp he with rfl | he
    · exact ⟨ho, hv⟩
    · exact hf.2 e he

/-- The state after reset lists nothing, which is canonical. -/
theorem Memory.reset_wf : Memory.wf State.reset.block.buffer := ⟨List.Pairwise.nil, fun _ h => nomatch h⟩

/-- MEM_WRITE keeps the canonical form. -/
theorem storeByte_wf (b : VideoAdapterState) (o : BufferOffset) (v : Byte) (h : Memory.wf b.buffer) :
    Memory.wf (storeByte b o v).buffer :=
  Memory.write_wf v o.isLt h

end Sys2Proof.Machine
end

