-- ==== Sys2Proof/Laws/PerInstr.lean ====
section
/-! SUPPORT. Families of statements about every operation, one lemma per constructor. -/

namespace Sys2Proof.Laws.EncodedFields

/-- The kind field of an operation (30_encoding.md R81). -/
def kindOf : Instr → BitVec 4
  | .memRead _ => 0x0#4
  | .memWrite _ _ => 0x1#4
  | .inStatus => 0x2#4
  | .inCrtData _ => 0x2#4
  | .inOther _ => 0x2#4
  | .outMode _ => 0x3#4
  | .outCrtData _ _ => 0x3#4
  | .outCrtAddr _ _ => 0x3#4
  | .outOdd _ _ => 0x3#4
  | .reset => 0x4#4
  | .traverse => 0x5#4
  | .install => 0x6#4
  | .identify => 0x7#4

/-- The word an operation is encoded as has its kind in K and 0 in Z (30_encoding.md R80, R81). -/
def Statement (i : Instr) : Prop := kindField (encode i) = kindOf i ∧ zField (encode i) = 0#4

theorem memRead (addr : Addr) : Statement (.memRead addr) := by simp [Statement, encode, kindOf]
theorem memWrite (addr : Addr) (value : Byte) : Statement (.memWrite addr value) := by simp [Statement, encode, kindOf]
theorem inStatus : Statement .inStatus := by simp [Statement, encode, kindOf]
theorem inCrtData (n : BitVec 2) : Statement (.inCrtData n) := by simp [Statement, encode, kindOf]
theorem inOther (port : Port) : Statement (.inOther port) := by simp [Statement, encode, kindOf]
theorem outMode (value : Byte) : Statement (.outMode value) := by simp [Statement, encode, kindOf]
theorem outCrtData (n : BitVec 2) (value : Byte) : Statement (.outCrtData n value) := by simp [Statement, encode, kindOf]
theorem outCrtAddr (port : Port) (value : Byte) : Statement (.outCrtAddr port value) := by simp [Statement, encode, kindOf]
theorem outOdd (port : Port) (value : Byte) : Statement (.outOdd port value) := by simp [Statement, encode, kindOf]
theorem reset : Statement .reset := by simp [Statement, encode, kindOf]
theorem traverse : Statement .traverse := by simp [Statement, encode, kindOf]
theorem install : Statement .install := by simp [Statement, encode, kindOf]
theorem identify : Statement .identify := by simp [Statement, encode, kindOf]

end Sys2Proof.Laws.EncodedFields
end

