-- ==== Sys2Proof/Laws/Render.lean ====
section
/-! SUPPORT. The scan's laws: what it can do, over any list of cells, and the list it is run over. -/

namespace Sys2Proof.Machine

/-! ## The renderer's answers -/

@[simp] theorem nextAnswer_cons (a : Status) (l : List Status) (n : Nat) : nextAnswer (a :: l) n = a := rfl

@[simp] theorem nextAnswer_nil (n : Nat) : nextAnswer [] n = Config.visitorAnswer n := rfl

/-- Answer k is the k-th supplied answer, where there is one. -/
theorem visitorAnswer_of_lt {s : State} {k : Nat} (h : k < s.answers.length) : visitorAnswer s k = s.answers[k] := by
  rw [visitorAnswer, List.drop_eq_getElem_cons h]
  rfl

/-- A renderer that has supplied n zeros accepts the next n records. -/
theorem acceptsFirst_of_replicate {s : State} {n : Nat} (h : s.answers = List.replicate n 0#32) : acceptsFirst s n := by
  intro k hk
  rw [visitorAnswer_of_lt (by simpa [h] using hk)]
  simp [h]

theorem abortsAt_of_replicate {s : State} {n : Nat} {a : Status} (h : s.answers = List.replicate n 0#32 ++ [a])
    (ha : a ≠ 0#32) : abortsAt s n := by
  have hl : s.answers.length = n + 1 := by rw [h, List.length_append, List.length_replicate]; rfl
  refine ⟨fun k hk => ?_, ?_⟩
  · have hk' : k < (List.replicate n 0#32).length := by rwa [List.length_replicate]
    rw [visitorAnswer_of_lt (by omega)]
    simp [h, List.getElem_append_left hk']
  · rw [visitorAnswer_of_lt (by omega)]
    simpa [h] using ha

/-! ## The cells -/

theorem cellsBelow_getElem {n i : Nat} (h : i < (cellsBelow n).length) : (cellsBelow n)[i] = BitVec.ofNat 11 i := by
  simp [cellsBelow]

theorem allCells_getElem {i : Nat} (h : i < allCells.length) : allCells[i] = BitVec.ofNat 11 i := by
  unfold allCells at h ⊢; exact cellsBelow_getElem h

theorem cellsBelow_toNat {n : Nat} (hn : n ≤ 2048) : (cellsBelow n).map (fun c => c.toNat) = List.range n := by
  rw [cellsBelow, List.map_map]
  conv_rhs => rw [← List.map_id (List.range n)]
  refine List.map_congr_left fun i hi => ?_
  have hi : i < n := List.mem_range.mp hi
  show (BitVec.ofNat 11 i).toNat = i
  rw [BitVec.toNat_ofNat, Nat.mod_eq_of_lt (by omega)]

@[simp] theorem allCells_toNat : allCells.map (fun c => c.toNat) = List.range 2048 := by
  unfold allCells; exact cellsBelow_toNat (Nat.le_refl _)

theorem mem_allCells (c : CellIndex) : c ∈ allCells := by
  have hc : c.toNat < allCells.length := by rw [allCells_length]; exact c.isLt
  have : allCells[c.toNat] = c := by rw [allCells_getElem, BitVec.ofNat_toNat, BitVec.setWidth_eq]
  exact this ▸ List.getElem_mem hc

/-- The cells ascend. -/
theorem allCells_rising : allCells.Pairwise fun c c' => c.toNat < c'.toNat := by
  have h : (allCells.map fun c => c.toNat).Pairwise (· < ·) := by rw [allCells_toNat]; exact List.pairwise_lt_range
  exact List.pairwise_map.mp h

theorem allCells_nodup : allCells.Nodup :=
  allCells_rising.imp fun h heq => by rw [heq] at h; exact Nat.lt_irrefl _ h

/-! ## The scan -/

theorem flaggedCells_fst (d : DirtyMap) : (flaggedCells d).map Prod.fst = allCells := by
  refine List.map_fst_zip ?_
  rw [allCells_length, d.size]

/-- The flag beside a cell is the cell's own. -/
theorem flaggedCells_eq (d : DirtyMap) : flaggedCells d = allCells.map fun c => (c, dirtyAt d c) := by
  have hl := flaggedCells_length d
  refine List.ext_getElem (by rw [hl, List.length_map, allCells_length]) fun i h1 h2 => ?_
  have hi : i < 2048 := hl ▸ h1
  simp [flaggedCells, allCells_getElem, dirtyAt, tableGet, Nat.mod_eq_of_lt hi]

/-- The cells of a list that a scan would deliver, in order. -/
def dueIn (b : VideoAdapterState) (cells : List (CellIndex × Bool)) : List CellIndex :=
  (cells.filter fun x => b.globalDirty || x.2).map Prod.fst

/-- Everything a scan can do: it delivers due cells in order, and stops at the first answer that is not 0. Either all of
them were accepted and their flags cleared, or the first n were and the next one aborted it. -/
theorem scanCells_spec (b : VideoAdapterState) : ∀ (cells : List (CellIndex × Bool)) (answers : List Status)
    (taken : Nat), (cells.map Prod.fst).Nodup →
    (∀ k, k < (dueIn b cells).length → nextAnswer (answers.drop k) (taken + k) = 0#32) ∧
      (scanCells b cells answers taken).records = (dueIn b cells).map (cellRecord b) ∧
      (scanCells b cells answers taken).aborted = none ∧
      (scanCells b cells answers taken).flags = cells.map (fun x => x.2 && !(dueIn b cells).contains x.1) ∨
    ∃ n, n < (dueIn b cells).length ∧
      (∀ k, k < n → nextAnswer (answers.drop k) (taken + k) = 0#32) ∧
      nextAnswer (answers.drop n) (taken + n) ≠ 0#32 ∧
      (scanCells b cells answers taken).records = ((dueIn b cells).take (n + 1)).map (cellRecord b) ∧
      (scanCells b cells answers taken).aborted = some (nextAnswer (answers.drop n) (taken + n)) ∧
      (scanCells b cells answers taken).flags = cells.map (fun x => x.2 && !((dueIn b cells).take n).contains x.1) := by
  intro cells
  induction cells with
  | nil => intro answers taken _; left; simp [scanCells, dueIn]
  | cons x cells ih =>
    obtain ⟨c, flag⟩ := x
    intro answers taken hnd
    obtain ⟨hc, hnd⟩ := List.nodup_cons.mp hnd
    have hne : ∀ x ∈ cells, x.1 ≠ c := fun x hx e => hc (List.mem_map.mpr ⟨x, hx, e⟩)
    by_cases hdue : (b.globalDirty || flag) = true
    · have hlist : dueIn b ((c, flag) :: cells) = c :: dueIn b cells := by simp [dueIn, hdue]
      have htail : ∀ k, nextAnswer (answers.tail.drop k) (taken + 1 + k) =
          nextAnswer (answers.drop (k + 1)) (taken + (k + 1)) := by
        intro k; rw [List.drop_tail, Nat.add_assoc, Nat.add_comm 1 k]
      by_cases hans : nextAnswer answers taken = 0#32
      · rw [scanCells, if_pos hdue, if_pos hans, hlist]
        have hstep := ih answers.tail (taken + 1) hnd
        simp only [htail] at hstep
        rcases hstep with ⟨h1, h2, h3, h4⟩ | ⟨n, h0, h1, h2, h3, h4, h5⟩
        · refine .inl ⟨fun k hk => ?_, by simp [h2], by simp [h3], ?_⟩
          · cases k with
            | zero => simpa using hans
            | succ k => exact h1 k (by simpa using hk)
          · rw [deliver_flags, h4, List.map_cons]
            congr 1
            · simp
            · exact List.map_congr_left fun x hx => by simp [hne x hx]
        · refine .inr ⟨n + 1, by simpa using h0, fun k hk => ?_, h2, by simp [h3], by simp [h4], ?_⟩
          · cases k with
            | zero => simpa using hans
            | succ k => exact h1 k (by omega)
          · rw [deliver_flags, h5, List.map_cons, List.take_succ_cons]
            congr 1
            · simp
            · exact List.map_congr_left fun x hx => by simp [hne x hx]
      · rw [scanCells, if_pos hdue, if_neg hans, hlist]
        exact .inr ⟨0, by simp, by simp, by simpa using hans, by simp, by simp, by simp⟩
    · have hflag : flag = false := by cases flag <;> simp_all
      have hlist : dueIn b ((c, flag) :: cells) = dueIn b cells := by simp only [dueIn, List.filter_cons, hdue]; rfl
      rw [scanCells, if_neg hdue, hlist]
      simpa [hflag] using ih answers taken hnd

theorem dueIn_flaggedCells (b : VideoAdapterState) : dueIn b (flaggedCells b.dirtyCell) = dueCells b := by
  rw [dueIn, flaggedCells_eq, List.filter_map, List.map_map]
  exact List.map_id _

/-- A flag of the map a scan's flags make. -/
theorem dirtyAt_scannedFlags {s : State} {f : CellIndex × Bool → Bool}
    (h : (scanBlock s).flags = (flaggedCells s.block.dirtyCell).map f) (c : CellIndex) :
    dirtyAt (scannedFlags s) c = f (c, dirtyAt s.block.dirtyCell c) := by
  rw [flaggedCells_eq, List.map_map] at h
  have hc : c.toNat < (scanBlock s).flags.length := by rw [scanBlock_flags_length]; exact c.isLt
  have hcell : allCells[c.toNat]'(by rw [allCells_length]; exact c.isLt) = c := by
    rw [allCells_getElem, BitVec.ofNat_toNat, BitVec.setWidth_eq]
  show (scanBlock s).flags[c.toNat] = _
  simp only [h, List.getElem_map, hcell, Function.comp]

/-- `scanCells_spec` for the scan TRAVERSE makes: its due cells are `dueCells`, its answers `visitorAnswer`. -/
theorem scanBlock_spec (s : State) :
    acceptsFirst s (dueCells s.block).length ∧
      (scanBlock s).records = (dueCells s.block).map (cellRecord s.block) ∧
      (scanBlock s).aborted = none ∧
      (∀ c, dirtyAt (scannedFlags s) c = (dirtyAt s.block.dirtyCell c && !(dueCells s.block).contains c)) ∨
    ∃ n, n < (dueCells s.block).length ∧ abortsAt s n ∧
      (scanBlock s).records = ((dueCells s.block).take (n + 1)).map (cellRecord s.block) ∧
      (scanBlock s).aborted = some (visitorAnswer s n) ∧
      (∀ c, dirtyAt (scannedFlags s) c =
        (dirtyAt s.block.dirtyCell c && !((dueCells s.block).take n).contains c)) := by
  have hnd : ((flaggedCells s.block.dirtyCell).map Prod.fst).Nodup := by
    rw [flaggedCells_fst]; exact allCells_nodup
  have hspec := scanCells_spec s.block (flaggedCells s.block.dirtyCell) s.answers s.answersTaken hnd
  rw [dueIn_flaggedCells] at hspec
  rcases hspec with ⟨h1, h2, h3, h4⟩ | ⟨n, h0, h1, h2, h3, h4, h5⟩
  · exact .inl ⟨h1, h2, h3, dirtyAt_scannedFlags h4⟩
  · exact .inr ⟨n, h0, ⟨h1, h2⟩, h3, h4, dirtyAt_scannedFlags h5⟩

theorem mem_dueCells {b : VideoAdapterState} {c : CellIndex} : c ∈ dueCells b ↔ isDue b c = true := by
  rw [dueCells, List.mem_filter]
  exact ⟨fun h => h.2, fun h => ⟨mem_allCells c, h⟩⟩

/-- What a due cell's flag says after it was delivered: nothing that was not due is marked. -/
theorem not_dirty_of_not_due {b : VideoAdapterState} {c : CellIndex} (h : c ∉ dueCells b) :
    dirtyAt b.dirtyCell c = false := by
  rw [mem_dueCells, isDue] at h
  simp only [Bool.not_eq_true, Bool.or_eq_false_iff] at h
  exact h.2

/-- With globalDirty every cell is due. -/
theorem dueCells_of_globalDirty {b : VideoAdapterState} (h : b.globalDirty = true) : dueCells b = allCells := by
  rw [dueCells, List.filter_eq_self]
  intro c _
  rw [isDue, h]; rfl

end Sys2Proof.Machine
end

