-- ==== Sys2Proof/Laws/Step.lean ====
section
/-! SUPPORT. What a step can do, said once, and the shape of every operation's next state. -/

namespace Sys2Proof.Machine

/-- A step that answers a next state either found nothing presented, or ran the operation the next word spells. -/
theorem step_cases {s t : State} (h : step s = .next t) :
    (s.requests = [] ∧ t = s) ∨
    ∃ w rest i, s.requests = .word w :: rest ∧ decode s.params.addrWidth w = .ok i ∧
      exec i { s with requests := rest } = .next t := by
  unfold step nextRequest at h
  cases hq : s.requests with
  | nil =>
    rw [hq] at h
    exact .inl ⟨rfl, (Host.Outcome.next.inj h).symm⟩
  | cons q rest =>
    rw [hq] at h
    cases q with
    | word w =>
      cases hd : decode s.params.addrWidth w with
      | ok i => simp only [requestedInstr, hd] at h; exact .inr ⟨w, rest, i, rfl, hd, h⟩
      | error e => simp [requestedInstr, hd] at h
    | wide w => simp [requestedInstr] at h
    | overlapping w => simp [requestedInstr] at h

/-- The block's record after an operation; the state after it is this record, the same parameters and queue, and the
answers and the response the operation names. -/
def blockAfter (i : Instr) (s : State) : VideoAdapterState :=
  match i with
  | .memRead _ => s.block
  | .memWrite addr value => storeByte s.block (bufferOffset s.params addr) value
  | .inStatus => { s.block with refreshToggle := s.block.refreshToggle ^^^ statusToggleMask }
  | .inCrtData _ => s.block
  | .inOther _ => s.block
  | .outMode value => { setGlobalDirty s.block with modeControlRegister := value }
  | .outCrtData _ value => crtDataWrite value (setGlobalDirty s.block)
  | .outCrtAddr _ value => { setGlobalDirty s.block with crtAddressRegister := value }
  | .outOdd _ _ => setGlobalDirty s.block
  | .reset => resetBlock s.block
  | .traverse => afterTraverse s
  | .install => s.block
  | .identify => s.block

/-- Every operation answers a next state: its block is `blockAfter`, and the parameters and the queue stay. -/
theorem exec_next {i : Instr} {s t : State} (h : exec i s = .next t) :
    t.block = blockAfter i s ∧ t.params = s.params ∧ t.requests = s.requests := by
  cases i <;> (cases h; exact ⟨rfl, rfl, rfl⟩)

/-- CRT data writes by index (41_port_io.md R129–R134). -/
theorem crtDataWrite_cases (value : Byte) (b : VideoAdapterState) :
    let stored := { b with crtRegisterFile := setCrtEntry b.crtRegisterFile b.crtAddressRegister value }
    (b.crtAddressRegister = 0x0A#8 ∧ crtDataWrite value b = cursorControlWrite value stored) ∨
    (b.crtAddressRegister = 0x0E#8 ∧ crtDataWrite value b = cursorHighWrite value stored) ∨
    (b.crtAddressRegister = 0x0F#8 ∧ crtDataWrite value b = cursorLowWrite value stored) ∨
    (b.crtAddressRegister ≠ 0x0A#8 ∧ b.crtAddressRegister ≠ 0x0E#8 ∧ b.crtAddressRegister ≠ 0x0F#8 ∧
      crtDataWrite value b = stored) := by
  intro stored
  unfold crtDataWrite crtIndexEffect
  by_cases hA : b.crtAddressRegister = 0x0A#8
  · exact .inl ⟨hA, by rw [if_pos hA]⟩
  · by_cases hE : b.crtAddressRegister = 0x0E#8
    · exact .inr (.inl ⟨hE, by rw [if_neg hA, if_pos hE]⟩)
    · by_cases hF : b.crtAddressRegister = 0x0F#8
      · exact .inr (.inr (.inl ⟨hF, by rw [if_neg hA, if_neg hE, if_pos hF]⟩))
      · exact .inr (.inr (.inr ⟨hA, hE, hF, by rw [if_neg hA, if_neg hE, if_neg hF]⟩))

/-- What no CRT data write touches. -/
theorem crtDataWrite_keeps (value : Byte) (b : VideoAdapterState) :
    (crtDataWrite value b).buffer = b.buffer ∧ (crtDataWrite value b).globalDirty = b.globalDirty ∧
    (crtDataWrite value b).refreshToggle = b.refreshToggle ∧
    (crtDataWrite value b).modeControlRegister = b.modeControlRegister ∧
    (crtDataWrite value b).crtAddressRegister = b.crtAddressRegister ∧
    (crtDataWrite value b).crtRegisterFile = setCrtEntry b.crtRegisterFile b.crtAddressRegister value := by
  rcases crtDataWrite_cases value b with ⟨-, h⟩ | ⟨-, h⟩ | ⟨-, h⟩ | ⟨-, -, -, h⟩ <;> rw [h] <;>
    exact ⟨rfl, rfl, rfl, rfl, rfl, rfl⟩

/-- No operation but MEM_WRITE changes the frame buffer. -/
theorem blockAfter_buffer (i : Instr) (s : State) :
    (blockAfter i s).buffer = s.block.buffer ∨
      ∃ a v, i = .memWrite a v ∧
        (blockAfter i s).buffer = s.block.buffer.write (bufferOffset s.params a).toNat v := by
  cases i with
  | memWrite a v => exact .inr ⟨a, v, rfl, rfl⟩
  | outCrtData n v => exact .inl (crtDataWrite_keeps v (setGlobalDirty s.block)).1
  | _ => exact .inl rfl

end Sys2Proof.Machine
end

