-- ==== Sys2Proof/Tests/Slice0.lean ====
section
/-! SUPPORT. Tests of the model against the words and vectors of spec/95_test_vectors.md (V<n> names one), the smoke test
of WellFormed, and a witness for the hypotheses of every obligation that has some. Every expected value is the spec's. -/

namespace Sys2Proof.Tests

open Sys2Proof.Machine

/-! ## Helpers -/

/-- A block with everything 0, no cell dirty and the cursor hidden. -/
def quiet : VideoAdapterState :=
  { VideoAdapterState.reset with dirtyCell := allClean, globalDirty := false, cursorVisible := false }

/-- The quiet block with some cells marked. -/
def marked (cells : List CellIndex) : VideoAdapterState := { quiet with dirtyCell := cells.foldl markCell allClean }

/-- The quiet block with a CRT register selected. -/
def selecting (index : Byte) : VideoAdapterState := { quiet with crtAddressRegister := index }

/-- A machine over a block, under the spec's example parameters, nothing presented. -/
def machine (b : VideoAdapterState) : State := { State.reset with block := b }

/-- The machine with the renderer's coming answers. -/
def answering (answers : List Status) (b : VideoAdapterState) : State := { machine b with answers := answers }

/-- The machine with one request presented. -/
def presented (q : Request) (s : State) : State := { s with requests := [q] }

/-- The outcome is a next state, and that state has the property. -/
def leads (o : Host.Outcome State Fault Refusal) (p : State → Bool) : Bool :=
  match o with
  | .next t => p t
  | _ => false

theorem exists_of_leads {o : Host.Outcome State Fault Refusal} {p : State → Bool} (h : leads o p = true) :
    ∃ t, o = .next t ∧ p t = true := by
  cases o with
  | next t => exact ⟨t, rfl, h⟩
  | fault r => cases h
  | refused r => cases h

/-- The result is this byte. -/
def answers (v : Byte) (t : State) : Bool := t.response == .byte v

/-- The cells a traversal's result lists. -/
def delivered (t : State) : List Nat :=
  match t.response with
  | .traversal records _ => records.map (fun r => r.cellIndex.toNat)
  | _ => []

/-! ## WellFormed: an ill-formed term for each check -/

theorem test_wf_memRead_wide : (Instr.memRead 0x100000#32).wellFormed 20 = false := by decide
theorem test_wf_memRead_top : (Instr.memRead 0xFFFFF#32).wellFormed 20 = true := by decide
theorem test_wf_memWrite_wide : (Instr.memWrite 0x100000#32 0#8).wellFormed 20 = false := by decide
theorem test_wf_inOther_status : (Instr.inOther 0x3BA#16).wellFormed 20 = false := by decide
theorem test_wf_inOther_crtData : (Instr.inOther 0x3B1#16).wellFormed 20 = false := by decide
theorem test_wf_outCrtAddr_odd : (Instr.outCrtAddr 0x3B9#16 0#8).wellFormed 20 = false := by decide
theorem test_wf_outCrtAddr_mode : (Instr.outCrtAddr 0x3B8#16 0#8).wellFormed 20 = false := by decide
theorem test_wf_outOdd_even : (Instr.outOdd 0x3B4#16 0#8).wellFormed 20 = false := by decide
theorem test_wf_outOdd_crtData : (Instr.outOdd 0x3B7#16 0#8).wellFormed 20 = false := by decide

/-! ## Decoding: the words of V110 to V132 -/

theorem test_decode_memRead : decode 20 0x00000FFFFF00#48 = .ok (.memRead 0xFFFFF#32) := by decide
theorem test_decode_memWrite : decode 20 0x10000B7FFF5A#48 = .ok (.memWrite 0xB7FFF#32 0x5A#8) := by decide
theorem test_decode_inStatus : decode 20 0x20000003BA00#48 = .ok .inStatus := by decide
theorem test_decode_inCrtData : decode 20 0x20000003B300#48 = .ok (.inCrtData 1#2) := by decide
theorem test_decode_inOther : decode 20 0x20000003B900#48 = .ok (.inOther 0x3B9#16) := by decide
theorem test_decode_inOther_mode : decode 20 0x20000003B800#48 = .ok (.inOther 0x3B8#16) := by decide
theorem test_decode_outMode : decode 20 0x30000003B8FF#48 = .ok (.outMode 0xFF#8) := by decide
theorem test_decode_outCrtData : decode 20 0x30000003B7FF#48 = .ok (.outCrtData 3#2 0xFF#8) := by decide
theorem test_decode_outCrtAddr : decode 20 0x30000003BA0E#48 = .ok (.outCrtAddr 0x3BA#16 0x0E#8) := by decide
theorem test_decode_outCrtAddr_outside : decode 20 0x300000001201#48 = .ok (.outCrtAddr 0x0012#16 0x01#8) := by decide
theorem test_decode_outOdd : decode 20 0x30000003BF00#48 = .ok (.outOdd 0x3BF#16 0x00#8) := by decide
theorem test_decode_reset : decode 20 0x4000000000FF#48 = .ok .reset := by decide
theorem test_decode_traverse : decode 20 0x500000123400#48 = .ok .traverse := by decide
theorem test_decode_install : decode 20 0x600000000000#48 = .ok .install := by decide
theorem test_decode_identify : decode 20 0x70FFFFFFFFFF#48 = .ok .identify := by decide
theorem test_decode_wide_port : decode 20 0x30000103B400#48 = .error (.widePort 0x000103B4#32) := by decide
theorem test_decode_kind_8 : decode 20 0x800000000000#48 = .error (.reservedKind 8#4) := by decide
theorem test_decode_kind_F : decode 20 0xF00000000000#48 = .error (.reservedKind 0xF#4) := by decide
theorem test_decode_z : decode 20 0x01000B000000#48 = .error (.reservedField 1#4) := by decide
theorem test_decode_wide_address : decode 20 0x000010000000#48 = .error (.wideAddress 0x00100000#32) := by decide
theorem test_decode_z_F : decode 20 0x7FFFFFFFFFFF#48 = .error (.reservedField 0xF#4) := by decide

/-- The host's two plain definitions, on the word of V114. -/
theorem test_table_word : decodeTableWord 48 0x30000003B8FF = some (.outMode 0xFF#8) := by decide

theorem test_fetch_word :
    leads (step (State.reset.withFetchWord 48 0x30000003B8FF)) (fun t => t.block.modeControlRegister == 0xFF#8) = true := by
  decide

/-! ## Framebuffer -/

/-- V11, V12: every alias reads the byte that V10 wrote. -/
theorem test_memRead_alias :
    leads (runOps [.memWrite 0xB0000#32 0x41#8, .memRead 0xB1000#32] (machine quiet)) (answers 0x41#8) = true ∧
    leads (runOps [.memWrite 0xB0000#32 0x41#8, .memRead 0xB7000#32] (machine quiet)) (answers 0x41#8) = true := by decide

/-- V19c: a base that is no multiple of 4096; buf[0x000], buf[0xFFF], buf[0x000]. -/
theorem test_memRead_base :
    let s := { machine { quiet with buffer := [(0x000, 0x11#8), (0xFFF, 0x22#8)] } with params := ⟨0xB0800#32, 20⟩ }
    leads (exec (.memRead 0xB0800#32) s) (answers 0x11#8) = true ∧
    leads (exec (.memRead 0xB17FF#32) s) (answers 0x22#8) = true ∧
    leads (exec (.memRead 0xB1800#32) s) (answers 0x11#8) = true := by decide

/-- V10, with globalDirty clear: it stays so. -/
theorem test_memWrite_first : leads (exec (.memWrite 0xB0000#32 0x41#8) (machine quiet)) (fun t =>
    t.block == { marked [0#11] with buffer := [(0x000, 0x41#8)] }) = true := by decide +kernel

/-- V19a: the same value again still marks the cell. -/
theorem test_memWrite_same_value :
    let b := { quiet with buffer := [(0x010, 0x58#8)] }
    leads (exec (.memWrite 0xB0010#32 0x58#8) (machine b)) (fun t =>
      t.block == { b with dirtyCell := (marked [8#11]).dirtyCell }) = true := by decide +kernel

/-! ## Ports -/

/-- V33 and V34: bits 3 and 0 are inverted one by one, the others kept. -/
theorem test_inStatus_toggle :
    leads (exec .inStatus (machine { quiet with refreshToggle := 0xF6#8 })) (answers 0xFF#8) = true ∧
    leads (exec .inStatus (machine { quiet with refreshToggle := 0x01#8 })) (answers 0x08#8) = true := by decide

/-- V31 and V32, and the byte stays. -/
theorem test_inStatus_twice : leads (runOps [.inStatus, .inStatus] (machine quiet)) (fun t =>
    answers 0x00#8 t && t.block.refreshToggle == 0x00#8) = true := by decide

/-- V36: index 0xFF is readable. -/
theorem test_inCrtData_last :
    leads (exec (.inCrtData 2#2) (machine { selecting 0xFF#8 with
      crtRegisterFile := setCrtEntry quiet.crtRegisterFile 0xFF#8 0xAB#8 })) (answers 0xAB#8) = true := by decide +kernel

/-- V35: the four aliases. -/
theorem test_inCrtData_aliases : ∀ n : BitVec 2,
    leads (exec (.inCrtData n) (machine { selecting 0x0E#8 with
      crtRegisterFile := setCrtEntry quiet.crtRegisterFile 0x0E#8 0x12#8 })) (answers 0x12#8) = true := by decide +kernel

/-- V37, V38: neither the mode nor the index register is read back. -/
theorem test_inOther_write_only :
    leads (exec (.inOther 0x3B8#16) (machine { quiet with modeControlRegister := 0x20#8 })) (answers 0x00#8) = true ∧
    leads (exec (.inOther 0x3B4#16) (machine (selecting 0x0E#8))) (answers 0x00#8) = true := by decide

/-- V51, V58: the mode byte is stored and the index kept. -/
theorem test_outMode : leads (exec (.outMode 0x20#8) (machine (selecting 0x0E#8))) (fun t =>
    t.block == { selecting 0x0E#8 with globalDirty := true, modeControlRegister := 0x20#8 }) = true := by decide +kernel

/-- V53: a write to the status port's number selects a register. -/
theorem test_outCrtAddr_status_port :
    leads (exec (.outCrtAddr 0x3BA#16 0x0F#8) (machine { quiet with refreshToggle := 0x55#8 })) (fun t =>
      t.block == { quiet with globalDirty := true, refreshToggle := 0x55#8, crtAddressRegister := 0x0F#8 }) = true := by
  decide +kernel

/-- V50. -/
theorem test_outOdd : leads (exec (.outOdd 0x3B9#16 0x55#8) (machine quiet)) (fun t =>
    t.block == { quiet with globalDirty := true }) = true := by decide +kernel

/-- V60 to V63: bit 5 alone shows the cursor; its cell is marked. -/
theorem test_outCrtData_control :
    let b := { selecting 0x0A#8 with cursorOffset := 0xF9D0#16 }
    leads (exec (.outCrtData 2#2 0xDF#8) (machine { b with cursorVisible := true })) (fun t =>
      !t.block.cursorVisible && t.block.dirtyCell == (marked [464#11]).dirtyCell && t.block.globalDirty) = true ∧
    leads (exec (.outCrtData 2#2 0x2F#8) (machine b)) (fun t => t.block.cursorVisible) = true := by decide +kernel

/-- V64 (high byte) and V68 (low byte): old and new cell are marked. -/
theorem test_outCrtData_bracket :
    leads (exec (.outCrtData 2#2 0x01#8) (machine { selecting 0x0E#8 with cursorOffset := 0x0050#16 })) (fun t =>
      t.block.cursorOffset == 0x0150#16 && t.block.dirtyCell == (marked [80#11, 336#11]).dirtyCell) = true ∧
    leads (exec (.outCrtData 2#2 0x10#8) (machine { selecting 0x0F#8 with cursorOffset := 0xF800#16 })) (fun t =>
      t.block.cursorOffset == 0xF810#16 && t.block.dirtyCell == (marked [0#11, 16#11]).dirtyCell) = true := by
  decide +kernel

/-! ## Lifecycle -/

/-- The block before RESET in V80. -/
def beforeReset : VideoAdapterState :=
  { quiet with
    buffer := [(0, 0x41#8)], refreshToggle := 0x5A#8, modeControlRegister := 0x20#8, crtAddressRegister := 0x33#8,
    crtRegisterFile := setCrtEntry quiet.crtRegisterFile 0x0E#8 0x01#8, cursorOffset := 0x0100#16 }

/-- V80. -/
theorem test_reset : leads (exec .reset (machine beforeReset)) (fun t =>
    t.block == { beforeReset with
      cursorVisible := true, cursorOffset := 0x0000#16, globalDirty := true, dirtyCell := allDirty }) = true := by
  decide +kernel

/-- V81: the readback does not show the cursor in effect. -/
theorem test_reset_readback : leads (runOps (.reset :: Pseudo.expand Config.exampleParams (.crtr 0x0E#8))
    (machine beforeReset)) (fun t => answers 0x01#8 t && t.block.cursorOffset == 0x0000#16) = true := by decide +kernel

/-- V84, with D13's two windows. -/
theorem test_install : exec .install (machine quiet) =
    .next { machine quiet with response := .registrations 0xB0000#32 0x8000 0x3B0#16 16 } := rfl

/-- V85. -/
theorem test_identify : exec .identify (machine quiet) =
    .next { machine quiet with response := .identity Config.deviceName .video } := rfl

/-! ## Traversal -/

/-- The block of V91: cells 5 and 9 dirty, each holding 'A' with attribute 0x07, the cursor visible at 0. -/
def twoDue : VideoAdapterState :=
  { marked [5#11, 9#11] with
    buffer := [(10, 0x41#8), (11, 0x07#8), (18, 0x41#8), (19, 0x07#8)], cursorVisible := true }

/-- The record of V91 for a cell. -/
def plainRecord (c : CellIndex) : CellRecord := ⟨c, 0x41#8, ⟨false, false, false, false⟩, some 0#11⟩

/-- V91. -/
theorem test_traverse_accepted : leads (exec .traverse (answering [0#32, 0#32] twoDue)) (fun t =>
    t.response == .traversal [plainRecord 5#11, plainRecord 9#11] 0#32 &&
    t.block == { twoDue with dirtyCell := allClean }) = true := by decide +kernel

/-- V93: the visitor's -2 comes back unchanged, and the refused cell stays dirty. -/
theorem test_traverse_aborted : leads (exec .traverse (answering [0#32, 0xFFFFFFFE#32] twoDue)) (fun t =>
    t.response == .traversal [plainRecord 5#11, plainRecord 9#11] 0xFFFFFFFE#32 &&
    t.block == { twoDue with dirtyCell := (marked [9#11]).dirtyCell }) = true := by decide +kernel

/-- V20: how many attribute bytes give each pair of outcomes, in the order of its table. -/
theorem test_attribute_counts :
    let outcome := fun (a : Nat) => (decodeAttr 0x41#8 (BitVec.ofNat 8 a) 0x00#8, decodeAttr 0x41#8 (BitVec.ofNat 8 a) 0x20#8)
    let count := fun (c c' : Byte) (f f' : BitVec 4) =>
      (List.range 256).countP (fun a => outcome a == ((c, Flags.unpack f), (c', Flags.unpack f')))
    [count 0x20#8 0x20#8 0#4 0#4, count 0x41#8 0x41#8 0#4 0#4, count 0x41#8 0x41#8 2#4 2#4, count 0x41#8 0x41#8 0#4 4#4,
      count 0x41#8 0x41#8 2#4 6#4, count 0x41#8 0x41#8 1#4 1#4, count 0x41#8 0x41#8 3#4 3#4, count 0x41#8 0x41#8 1#4 5#4,
      count 0x41#8 0x41#8 3#4 7#4, count 0x41#8 0x41#8 8#4 8#4, count 0x41#8 0x41#8 10#4 10#4,
      count 0x41#8 0x41#8 8#4 12#4, count 0x41#8 0x41#8 10#4 14#4] = [4, 54, 54, 54, 54, 8, 8, 8, 8, 1, 1, 1, 1] := by
  decide +kernel

/-- V100 and V101: the blank override and the inverse rule with blinking enabled. -/
theorem test_attribute_special : decodeAttr 0x51#8 0x88#8 0x20#8 = (0x20#8, ⟨false, false, false, false⟩) ∧
    decodeAttr 0x41#8 0xF8#8 0x00#8 = (0x41#8, ⟨false, true, false, true⟩) ∧
    decodeAttr 0x41#8 0xF8#8 0x20#8 = (0x41#8, ⟨false, true, true, true⟩) := by decide

/-- The notation of R97 for the word of V114. -/
theorem test_asm : (Instr.outMode 0xFF#8).asm = "out 952, 255" := by decide +kernel

/-! ## Witnesses: the hypotheses of each obligation that has some, met together -/

theorem witness_OtherCrtRegistersArePlainStorage :
    ∀ i ∈ [0x00#8, 0x09#8, 0x0B#8, 0x0D#8, 0x10#8, 0xFF#8],
      (machine (selecting i)).block.crtAddressRegister ≠ 0x0A#8 ∧
      (machine (selecting i)).block.crtAddressRegister ≠ 0x0E#8 ∧
      (machine (selecting i)).block.crtAddressRegister ≠ 0x0F#8 := by decide

/-- CursorControlWriteShowsOrHides. -/
theorem witness_CursorControl : (machine (selecting 0x0A#8)).block.crtAddressRegister = 0x0A#8 := rfl

/-- CursorHighWriteBracketsBothCells and both clauses of CursorHighRegisterStoresAndReadsBack. -/
theorem witness_CursorHigh : (machine (selecting 0x0E#8)).block.crtAddressRegister = 0x0E#8 := rfl

/-- CursorLowWriteBracketsBothCells and both clauses of CursorLowRegisterStoresAndReadsBack. -/
theorem witness_CursorLow : (machine (selecting 0x0F#8)).block.crtAddressRegister = 0x0F#8 := rfl

/-- Two cells due and two acceptances. -/
def accepting : State := answering [0#32, 0#32] twoDue

theorem twoDue_due : (dueCells twoDue).map (fun c => c.toNat) = [5, 9] := by
  rw [← dueIn_flaggedCells]
  decide +kernel

theorem twoDue_length : (dueCells twoDue).length = 2 := by
  rw [← List.length_map (fun c : CellIndex => c.toNat), twoDue_due]; rfl

theorem witness_AcceptedTraversal : acceptsFirst accepting (dueCells accepting.block).length := by
  show acceptsFirst accepting (dueCells twoDue).length
  rw [twoDue_length]
  exact acceptsFirst_of_replicate rfl

/-- The whole screen due, and every record accepted. -/
def redrawing : State := answering (List.replicate 2048 0#32) VideoAdapterState.reset

theorem redrawing_due : (dueCells redrawing.block).length = 2048 := by
  rw [dueCells_of_globalDirty rfl, allCells_length]

theorem witness_AcceptedTraversal_full : acceptsFirst redrawing (dueCells redrawing.block).length := by
  rw [redrawing_due]
  exact acceptsFirst_of_replicate rfl

/-- The last of the two due cells is refused. -/
def refusing : State := answering [0#32, 7#32, 0#32] twoDue

theorem refusing_second : abortsAt refusing 1 :=
  ⟨fun k hk => by obtain rfl : k = 0 := by omega
                  rfl,
    by decide⟩

theorem witness_AbortedTraversal_last : ∃ _ : 1 < (dueCells refusing.block).length, abortsAt refusing 1 :=
  ⟨by show 1 < (dueCells twoDue).length; rw [twoDue_length]; omega, refusing_second⟩

theorem witness_AbortedTraversal_first :
    ∃ _ : 0 < (dueCells (answering [7#32] twoDue).block).length, abortsAt (answering [7#32] twoDue) 0 :=
  ⟨by show 0 < (dueCells twoDue).length; rw [twoDue_length]; omega, fun k hk => absurd hk (by omega), by decide⟩

/-- An abort on the last cell of a full redraw (V96). -/
def lateRefusal : State := answering (List.replicate 2047 0#32 ++ [3#32]) VideoAdapterState.reset

theorem witness_AbortedTraversal_full :
    ∃ _ : 2047 < (dueCells lateRefusal.block).length, abortsAt lateRefusal 2047 :=
  ⟨by rw [dueCells_of_globalDirty (b := lateRefusal.block) rfl, allCells_length]; omega,
    abortsAt_of_replicate (a := 3#32) rfl (by decide)⟩

/-- The statements on a traversal's records: EveryRecordCarriesTheSameCursorCell with the cursor visible,
RecordsDecodeTheCellsTwoBytes, RecordsAscendAndWereDue; and AcceptedRecordsLeaveTheirCellsClean at the last record. -/
theorem witness_records : ∃ t records status, exec .traverse accepting = .next t ∧
    t.response = .traversal records status ∧ records.map (fun r => r.cellIndex.toNat) = [5, 9] ∧
    ∃ _ : 1 < records.length, visitorAnswer accepting 1 = 0#32 := by
  refine ⟨_, _, _, rfl, rfl, ?_, ?_, rfl⟩ <;> decide +kernel

/-- The same with the cursor hidden. -/
theorem witness_records_hidden : ∃ t records status,
    exec .traverse (answering [0#32] (marked [0#11])) = .next t ∧ t.response = .traversal records status ∧
    records.map (fun r => r.cursorCell) = [none] := by
  refine ⟨_, _, _, rfl, rfl, ?_⟩
  decide +kernel

theorem witness_FullRedraw : ∃ r, exec .reset { machine quiet with answers := List.replicate 2048 0#32 } = .next r ∧
    acceptsFirst r 2048 :=
  ⟨_, rfl, acceptsFirst_of_replicate rfl⟩

/-- RefusedCellIsDeliveredAgain, after the partial traversal of `refusing`. -/
theorem witness_RefusedCell : ∃ t, (∃ _ : 1 < (dueCells refusing.block).length, abortsAt refusing 1) ∧
    exec .traverse refusing = .next t ∧ acceptsFirst t (dueCells t.block).length := by
  obtain ⟨t, ht, h⟩ := exists_of_leads (o := exec .traverse refusing)
    (p := fun u => decide ((dueIn u.block (flaggedCells u.block.dirtyCell)).map (fun c => c.toNat) = [9] ∧
      u.answers = [0#32])) (by decide +kernel)
  obtain ⟨h1, h2⟩ := of_decide_eq_true h
  refine ⟨t, witness_AbortedTraversal_last, ht, ?_⟩
  rw [← dueIn_flaggedCells, ← List.length_map (fun c : CellIndex => c.toNat), h1]
  exact acceptsFirst_of_replicate h2

/-- The clause of RefusedCellIsDeliveredAgain for a full redraw: its first record refused. -/
theorem witness_RefusedCell_full :
    let s := answering (7#32 :: List.replicate 2048 0#32) VideoAdapterState.reset
    s.block.globalDirty = true ∧ ∃ t, (∃ _ : 0 < (dueCells s.block).length, abortsAt s 0) ∧
      exec .traverse s = .next t ∧ acceptsFirst t (dueCells t.block).length := by
  obtain ⟨t, ht, h⟩ := exists_of_leads
    (o := exec .traverse (answering (7#32 :: List.replicate 2048 0#32) VideoAdapterState.reset))
    (p := fun u => u.answers == List.replicate 2048 0#32) (by decide +kernel)
  refine ⟨rfl, t, ⟨?_, fun k hk => absurd hk (by omega), by decide⟩, ht, fun k hk => ?_⟩
  · show 0 < (dueCells redrawing.block).length
    rw [redrawing_due]; omega
  · have hle : (dueCells t.block).length ≤ 2048 := allCells_length ▸ List.length_filter_le ..
    exact acceptsFirst_of_replicate (beq_iff_eq.mp h) k (by omega)

theorem witness_EveryPortWrite : ∀ i ∈ [Instr.outMode 0x20#8, .outCrtAddr 0x3B4#16 0x0E#8, .outCrtData 2#2 0x01#8,
    .outOdd 0x3B9#16 0x55#8], i.isPortWrite = true ∧
      ∃ t, exec i { machine quiet with answers := List.replicate 2048 0#32 } = .next t ∧ acceptsFirst t 2048 := by
  intro i hi
  simp only [List.mem_cons, List.not_mem_nil, or_false] at hi
  rcases hi with rfl | rfl | rfl | rfl <;> exact ⟨rfl, _, rfl, acceptsFirst_of_replicate rfl⟩

/-- Two states that a traversal cannot tell apart: they differ in every field and bit it does not see. -/
def seenAlike : State := answering [0#32, 0#32] { twoDue with
  modeControlRegister := 0xDF#8, cursorOffset := 0xF800#16, refreshToggle := 0xFF#8, crtAddressRegister := 0xFF#8,
  crtRegisterFile := Table.fill 256 0xFF#8 }

theorem witness_TraverseShows : accepting.block.buffer = seenAlike.block.buffer ∧
    accepting.block.dirtyCell = seenAlike.block.dirtyCell ∧
    accepting.block.globalDirty = seenAlike.block.globalDirty ∧
    accepting.block.cursorVisible = seenAlike.block.cursorVisible ∧
    specCursorCell accepting.block.cursorOffset = specCursorCell seenAlike.block.cursorOffset ∧
    accepting.block.modeControlRegister.getLsbD 5 = seenAlike.block.modeControlRegister.getLsbD 5 ∧
    accepting.answers = seenAlike.answers ∧ accepting.answersTaken = seenAlike.answersTaken ∧
    (∃ t, exec .traverse accepting = .next t) ∧ (∃ t, exec .traverse seenAlike = .next t) ∧ accepting ≠ seenAlike :=
  ⟨rfl, rfl, rfl, rfl, by decide, by decide, rfl, rfl, ⟨_, rfl⟩, ⟨_, rfl⟩,
    fun h => absurd (congrArg (fun s => s.block.refreshToggle) h) (by decide)⟩

theorem witness_WritesAreSeen : (0xB0000#32).toNat % 4096 = (0xB7000#32).toNat % 4096 ∧
    (0xB0000#32).toNat % 4096 ≠ (0xB0FFF#32).toNat % 4096 := by decide

theorem witness_EqualContents : Memory.wf [(0, 0x41#8), (4095, 0x07#8)] ∧
    ∀ o, o < 4096 → Memory.read [(0, 0x41#8), (4095, 0x07#8)] o = Memory.read [(0, 0x41#8), (4095, 0x07#8)] o :=
  ⟨by decide, fun _ _ => rfl⟩

theorem witness_PortReads : ∀ i ∈ [Instr.inStatus, .inCrtData 3#2, .inOther 0x3B9#16], i.isPortRead = true := by decide

theorem witness_PortReads_not_status : (Instr.inOther 0x3B8#16).isPortRead = true ∧ Instr.inOther 0x3B8#16 ≠ .inStatus := by
  decide

theorem witness_StatusReadsAlternate : ∃ s1 s2 s3 s4 s5,
    (∀ i ∈ [Instr.outMode 0x20#8, .reset], i ≠ .inStatus) ∧ (∀ i ∈ [Instr.install], i ≠ .inStatus) ∧
    exec .inStatus (machine quiet) = .next s1 ∧ runOps [.outMode 0x20#8, .reset] s1 = .next s2 ∧
    exec .inStatus s2 = .next s3 ∧ runOps [.install] s3 = .next s4 ∧ exec .inStatus s4 = .next s5 :=
  ⟨_, _, _, _, _, by decide, by decide, rfl, rfl, rfl, rfl, rfl⟩

/-- The CRT data ports as the two port map statements list them. -/
def dataPorts : List Port := [0x3B1#16, 0x3B3#16, 0x3B5#16, 0x3B7#16]

/-- PortReadWordsFollowThePortMap: the hypothesis, at each clause's first and last port. -/
theorem witness_PortReadWords : ∀ p : Port,
    (presented (.word (packTxn 0x2#4 0#4 (p.setWidth 32) 0#8)) (machine quiet)).requests =
      .word (packTxn 0x2#4 0#4 (p.setWidth 32) 0#8) :: [] := fun _ => rfl

theorem witness_PortReadWords_clauses :
    ([0x3B1#16, 0x3B7#16].all fun p => p != 0x3BA#16 && decide (p ∈ dataPorts)) = true ∧
    ([0x0000#16, 0x3B0#16, 0x3B8#16, 0x3B9#16, 0xFFFF#16].all fun p => p != 0x3BA#16 && !decide (p ∈ dataPorts)) = true := by
  decide

/-- PortWriteWordsFollowThePortMap: the same for its four clauses. -/
theorem witness_PortWriteWords : ∀ (p : Port) (d : Byte),
    (presented (.word (packTxn 0x3#4 0#4 (p.setWidth 32) d)) (machine quiet)).requests =
      .word (packTxn 0x3#4 0#4 (p.setWidth 32) d) :: [] := fun _ _ => rfl

theorem witness_PortWriteWords_clauses :
    ([0x3B1#16, 0x3B7#16].all fun p => p != 0x3B8#16 && decide (p ∈ dataPorts)) = true ∧
    ([0x0000#16, 0x3B0#16, 0x3BA#16, 0xFFFE#16].all fun p =>
      p != 0x3B8#16 && !decide (p ∈ dataPorts) && p.toNat % 2 == 0) = true ∧
    ([0x0001#16, 0x3B9#16, 0x3BF#16, 0xFFFF#16].all fun p =>
      p != 0x3B8#16 && !decide (p ∈ dataPorts) && p.toNat % 2 != 0) = true := by decide

/-- SetCursorPlacesTheCursor on setcursor 0x0150 from 0x00FF: the cell of 0x01FF between the two writes is marked too. -/
theorem test_setcursor_between : leads (runOps (Pseudo.expand Config.exampleParams (.setCursor 0x0150#16))
    (machine { quiet with cursorOffset := 0x00FF#16 })) (fun t =>
      t.block.cursorOffset == 0x0150#16 && t.block.dirtyCell == (marked [255#11, 511#11, 336#11]).dirtyCell) = true := by
  decide +kernel

/-- DecodeOfEncodeIsTheOperation: operands at the ends of their ranges. -/
theorem witness_DecodeOfEncode : ∀ i ∈ [Instr.memRead 0xFFFFF#32, .memWrite 0#32 0xFF#8, .inStatus, .inCrtData 3#2,
    .inOther 0xFFFF#16, .outMode 0xFF#8, .outCrtData 0#2 0xFF#8, .outCrtAddr 0xFFFE#16 0xFF#8, .outOdd 0xFFFF#16 0xFF#8,
    .reset, .traverse, .install, .identify], i.wellFormed 20 = true := by decide

/-- The same at the widest and the narrowest legal ADDR_WIDTH. -/
theorem witness_DecodeOfEncode_widths : (Instr.memRead 0xFFFFFFFF#32).wellFormed 32 = true ∧
    (Instr.memRead 0xFFFF#32).wellFormed 16 = true := by decide

/-- DecodedWordsDifferOnlyInIgnoredBits: a word with every ignored bit set. -/
theorem witness_DecodedWords : decode 20 0x40FFFFFFFFFF#48 = .ok .reset ∧
    decode 20 0x00000B0000FF#48 = .ok (.memRead 0xB0000#32) := by decide

/-- DecoderFollowsTheFirstRowOfTheTable: a word under each case of its match. -/
theorem witness_DecoderFollowsFirstRow :
    (firstRow 0x30000003B3FF#48).map (fun r => r.mnemonic) = some "OUT_CRTDATA" ∧
    decode 20 0x000010000000#48 = .error (.wideAddress 0x100000#32) ∧
    decode 20 0x200001000000#48 = .error (.widePort 0x10000#32) ∧ firstRow 0x200001000000#48 = none := by decide

/-- RefusedWordsAreExactlyTheFourCases: each case at its boundary, and the word just inside it. -/
theorem witness_RefusedWords :
    decode 20 0x800000000000#48 = .error (.reservedKind 8#4) ∧ decode 20 0x700000000000#48 = .ok .identify ∧
    decode 20 0x010000000000#48 = .error (.reservedField 1#4) ∧ decode 20 0x00000FFFFFFF#48 = .ok (.memRead 0xFFFFF#32) ∧
    decode 20 0x100010000000#48 = .error (.wideAddress 0x100000#32) ∧
    decode 20 0x300001000000#48 = .error (.widePort 0x10000#32) ∧
    decode 20 0x300000FFFF00#48 = .ok (.outOdd 0xFFFF#16 0#8) ∧
    decode 32 0x00FFFFFFFF00#48 = .ok (.memRead 0xFFFFFFFF#32) := by decide

theorem witness_StepRuns :
    let s := presented (.word 0x30000003B820#48) (machine quiet)
    s.requests = .word 0x30000003B820#48 :: [] ∧ decode s.params.addrWidth 0x30000003B820#48 = .ok (.outMode 0x20#8) := by
  decide

/-- StepRefusesWhatTheBlockDoesNotAdmit: its three clauses. -/
theorem witness_StepRefuses :
    ((presented (.word 0x800000000000#48) (machine quiet)).requests = .word 0x800000000000#48 :: [] ∧
      decode (machine quiet).params.addrWidth 0x800000000000#48 = .error (.reservedKind 8#4)) ∧
    (presented (.wide 0#48) (machine quiet)).requests = .wide 0#48 :: [] ∧
    (presented (.overlapping 0#48) (machine quiet)).requests = .overlapping 0#48 :: [] := by decide

theorem witness_Idle : State.reset.requests = [] := rfl

theorem witness_StepKeepsInv :
    let s := presented (.word 0x10000B0FFF12#48) State.reset
    s.Inv ∧ ∃ t, step s = .next t ∧ (t.block.buffer == [(0xFFF, 0x12#8)]) = true :=
  ⟨⟨Memory.reset_wf, by decide⟩, exists_of_leads (by decide)⟩

/-- GlobalDirtyFallsOnlyAfterAFullDelivery. -/
theorem witness_GlobalDirtyFalls :
    let s := presented (.word 0x500000000000#48) redrawing
    s.block.globalDirty = true ∧ ∃ t, step s = .next t ∧ (!t.block.globalDirty) = true :=
  ⟨rfl, exists_of_leads (by decide +kernel)⟩

/-- DirtyFlagsFallOnlyByDelivery. -/
theorem witness_DirtyFlagsFall :
    let s := presented (.word 0x500000000000#48) accepting
    dirtyAt s.block.dirtyCell 9#11 = true ∧ ∃ t, step s = .next t ∧ (!dirtyAt t.block.dirtyCell 9#11) = true :=
  ⟨by decide +kernel, exists_of_leads (by decide +kernel)⟩

/-- DirtyFlagsRiseOnlyByTheirThreeCauses: the first and the last cell under each cause. -/
theorem witness_DirtyFlagsRise :
    dirtyAt (machine (selecting 0x0E#8)).block.dirtyCell 2047#11 = false ∧
    leads (exec (.memWrite 0xB0FFF#32 0x12#8) (machine quiet)) (fun t => dirtyAt t.block.dirtyCell 2047#11) = true ∧
    leads (exec (.outCrtData 0#2 0xFF#8) (machine { selecting 0x0E#8 with cursorOffset := 0x00FF#16 }))
      (fun t => dirtyAt t.block.dirtyCell 255#11 && dirtyAt t.block.dirtyCell 2047#11) = true ∧
    leads (exec (.outCrtData 0#2 0x20#8) (machine (selecting 0x0A#8))) (fun t => dirtyAt t.block.dirtyCell 0#11) = true ∧
    leads (exec .reset (machine quiet)) (fun t => dirtyAt t.block.dirtyCell 2047#11) = true := by decide +kernel

/-- EachFieldChangesOnlyByItsOwnOperations: an operation that changes the field, for each clause in turn. -/
theorem witness_EachField :
    leads (exec (.memWrite 0xB0000#32 0x41#8) (machine quiet)) (fun t => t.block.buffer != quiet.buffer) = true ∧
    leads (exec (.memWrite 0xB0000#32 0x41#8) (machine quiet)) (fun t => t.block.dirtyCell != quiet.dirtyCell) = true ∧
    leads (exec (.outCrtData 0#2 0x20#8) (machine (selecting 0x0A#8)))
      (fun t => t.block.dirtyCell != quiet.dirtyCell) = true ∧
    leads (exec (.outCrtData 0#2 0x01#8) (machine (selecting 0x0F#8)))
      (fun t => t.block.dirtyCell != quiet.dirtyCell) = true ∧
    leads (exec .reset (machine quiet)) (fun t => t.block.dirtyCell != quiet.dirtyCell) = true ∧
    leads (exec .traverse accepting) (fun t => t.block.dirtyCell != accepting.block.dirtyCell) = true ∧
    leads (exec .traverse redrawing) (fun t => !t.block.globalDirty && redrawing.block.globalDirty) = true ∧
    leads (exec (.outOdd 0x3B9#16 0#8) (machine quiet)) (fun t => t.block.globalDirty && !quiet.globalDirty) = true ∧
    leads (exec .reset (machine quiet)) (fun t => t.block.globalDirty && t.block.cursorVisible != quiet.cursorVisible) = true ∧
    leads (exec (.outCrtData 0#2 0x20#8) (machine (selecting 0x0A#8)))
      (fun t => t.block.cursorVisible != quiet.cursorVisible) = true ∧
    leads (exec (.outCrtData 0#2 0x01#8) (machine (selecting 0x0E#8)))
      (fun t => t.block.cursorOffset != quiet.cursorOffset) = true ∧
    leads (exec (.outCrtData 0#2 0x01#8) (machine (selecting 0x0F#8)))
      (fun t => t.block.cursorOffset != quiet.cursorOffset) = true ∧
    leads (exec .inStatus (machine quiet)) (fun t => t.block.refreshToggle != quiet.refreshToggle) = true ∧
    leads (exec (.outMode 0x20#8) (machine quiet))
      (fun t => t.block.modeControlRegister != quiet.modeControlRegister) = true ∧
    leads (exec (.outCrtAddr 0x3B4#16 0x0E#8) (machine quiet))
      (fun t => t.block.crtAddressRegister != quiet.crtAddressRegister) = true ∧
    leads (exec (.outCrtData 0#2 0x99#8) (machine (selecting 0x33#8)))
      (fun t => t.block.crtRegisterFile != quiet.crtRegisterFile) = true := by decide +kernel

theorem witness_RefreshToggleKeeps :
    ∃ t, step (presented (.word 0x20000003BA00#48) (machine quiet)) = .next t ∧ answers 0x09#8 t = true :=
  exists_of_leads (by decide)

end Sys2Proof.Tests
end

section
/-! PROOFS. The obligations of spec/10_state.md. The rules come first, in the order of the model's definitions: the frame
buffer's canonical form, the CRT data write, the traversal, and what one operation can do to each field of the block. The
obligations follow, each assembled from them. -/

namespace Sys2Proof.Machine

/-! ## The frame buffer: a canonical form is determined by what it reads -/

/-- A byte that differs from the unlisted one stands in a pair of the list. -/
theorem Memory.mem_of_read_ne {m : Memory} {o : Nat} (h : Memory.read m o ≠ unlistedByte) :
    (o, Memory.read m o) ∈ m := by
  induction m with
  | nil => exact absurd rfl h
  | cons e m ih =>
    obtain ⟨k, v⟩ := e
    rw [Memory.read_cons] at h ⊢
    split_ifs at h ⊢ with hk
    · exact hk ▸ List.mem_cons_self
    · exact List.mem_cons_of_mem _ (ih h)

/-- In a rising list each offset has one pair, so that a listed byte is the one read. -/
theorem Memory.read_of_mem {m : Memory} (hm : m.Pairwise fun x y => x.1 < y.1) {e : Host.Cell} (he : e ∈ m) :
    Memory.read m e.1 = e.2 := by
  induction m with
  | nil => cases he
  | cons x m ih =>
    obtain ⟨hlt, hm⟩ := List.pairwise_cons.mp hm
    rw [Memory.read_cons]
    rcases List.mem_cons.mp he with rfl | he
    · exact if_pos rfl
    · rw [if_neg (Nat.ne_of_lt (hlt e he)), ih hm he]

/-- Each pair of a canonical form stands in every other one that reads alike. -/
theorem Memory.mem_of_read_eq {m m' : Memory} (hm : Memory.wf m)
    (hread : ∀ o, o < 4096 → Memory.read m o = Memory.read m' o) {e : Host.Cell} (he : e ∈ m) : e ∈ m' := by
  obtain ⟨hrising, hlisted⟩ := hm
  obtain ⟨hlt, hne⟩ := hlisted e he
  have hval : Memory.read m' e.1 = e.2 := (hread e.1 hlt).symm.trans (Memory.read_of_mem hrising he)
  have hmem := Memory.mem_of_read_ne (m := m') (o := e.1) (hval ▸ hne)
  rwa [hval] at hmem

theorem Memory.nodup_of_wf {m : Memory} (hm : Memory.wf m) : m.Nodup :=
  hm.1.imp fun hlt heq => Nat.ne_of_lt hlt (congrArg Prod.fst heq)

/-- The first n bytes of a fill, written one after another into the empty buffer. -/
theorem Memory.exists_fill_below (fill : Nat → Byte) (n : Nat) (hn : n ≤ 4096) :
    ∃ m : Memory, Memory.wf m ∧ ∀ o, o < n → Memory.read m o = fill o := by
  induction n with
  | zero => exact ⟨[], Memory.reset_wf, fun o ho => absurd ho (Nat.not_lt_zero o)⟩
  | succ n ih =>
    obtain ⟨m, hwf, hread⟩ := ih (by omega)
    refine ⟨m.write n (fill n), Memory.write_wf _ hn hwf, fun o ho => ?_⟩
    rw [Memory.read_write]
    split_ifs with heq
    · rw [heq]
    · exact hread o (by omega)

/-! ## Addresses and cells -/

/-- The 32-bit wrap of the subtraction leaves the remainder modulo 4096 as it is (20_memory.md R52). -/
theorem bufferOffset_toNat (p : Params) (a : Addr) : (bufferOffset p a).toNat = specOffset p a := by
  have ha := a.isLt
  have hp := p.baseAddr.isLt
  rw [bufferOffset, specOffset, BitVec.toNat_setWidth, BitVec.toNat_sub]
  omega

theorem owningCell_toNat (o : BufferOffset) : (owningCell o).toNat = o.toNat / 2 := by
  have ho := o.isLt
  rw [owningCell, BitVec.toNat_setWidth, BitVec.toNat_ushiftRight, Nat.shiftRight_eq_div_pow]
  omega

/-! ## The CRT data write (41_port_io.md R129–R134) -/

theorem exec_inCrtData (n : BitVec 2) (s : State) :
    exec (.inCrtData n) s =
      .next { s with response := .byte (crtEntry s.block.crtRegisterFile s.block.crtAddressRegister) } := rfl

theorem exec_outCrtData (n : BitVec 2) (value : Byte) (s : State) :
    exec (.outCrtData n value) s = .next (respond s (crtDataWrite value (setGlobalDirty s.block)) .noResult) := rfl

@[simp] theorem crtDataWrite_globalDirty (value : Byte) (b : VideoAdapterState) :
    (crtDataWrite value b).globalDirty = b.globalDirty := by
  obtain ⟨-, h, -⟩ := crtDataWrite_keeps value b
  exact h

@[simp] theorem crtDataWrite_refreshToggle (value : Byte) (b : VideoAdapterState) :
    (crtDataWrite value b).refreshToggle = b.refreshToggle := by
  obtain ⟨-, -, h, -⟩ := crtDataWrite_keeps value b
  exact h

@[simp] theorem crtDataWrite_modeControlRegister (value : Byte) (b : VideoAdapterState) :
    (crtDataWrite value b).modeControlRegister = b.modeControlRegister := by
  obtain ⟨-, -, -, h, -⟩ := crtDataWrite_keeps value b
  exact h

@[simp] theorem crtDataWrite_crtAddressRegister (value : Byte) (b : VideoAdapterState) :
    (crtDataWrite value b).crtAddressRegister = b.crtAddressRegister := by
  obtain ⟨-, -, -, -, h, -⟩ := crtDataWrite_keeps value b
  exact h

@[simp] theorem crtDataWrite_crtRegisterFile (value : Byte) (b : VideoAdapterState) :
    (crtDataWrite value b).crtRegisterFile = setCrtEntry b.crtRegisterFile b.crtAddressRegister value := by
  obtain ⟨-, -, -, -, -, h⟩ := crtDataWrite_keeps value b
  exact h

/-- A register that is no cursor register is storage: the write is the store alone (R134). -/
theorem crtDataWrite_of_plain (value : Byte) {b : VideoAdapterState} (hA : b.crtAddressRegister ≠ 0x0A#8)
    (hE : b.crtAddressRegister ≠ 0x0E#8) (hF : b.crtAddressRegister ≠ 0x0F#8) :
    crtDataWrite value b =
      { b with crtRegisterFile := setCrtEntry b.crtRegisterFile b.crtAddressRegister value } := by
  rcases crtDataWrite_cases value b with ⟨h, -⟩ | ⟨h, -⟩ | ⟨h, -⟩ | ⟨-, -, -, h⟩
  · exact absurd h hA
  · exact absurd h hE
  · exact absurd h hF
  · exact h

/-- Register 0x0A alone shows and hides the cursor, by bit 5 (R130). -/
theorem crtDataWrite_cursorVisible (value : Byte) (b : VideoAdapterState) :
    (crtDataWrite value b).cursorVisible =
      if b.crtAddressRegister = 0x0A#8 then value &&& 0x20#8 != 0#8 else b.cursorVisible := by
  rcases crtDataWrite_cases value b with ⟨hr, h⟩ | ⟨hr, h⟩ | ⟨hr, h⟩ | ⟨hA, -, -, h⟩
  · rw [h, if_pos hr]; rfl
  · rw [h, hr]; rfl
  · rw [h, hr]; rfl
  · rw [h, if_neg hA]

/-- Registers 0x0E and 0x0F alone move the cursor, each by its own merge (R132, R133). -/
theorem crtDataWrite_cursorOffset (value : Byte) (b : VideoAdapterState) :
    (crtDataWrite value b).cursorOffset =
      if b.crtAddressRegister = 0x0E#8 then withCursorHigh b.cursorOffset value
      else if b.crtAddressRegister = 0x0F#8 then withCursorLow b.cursorOffset value
      else b.cursorOffset := by
  rcases crtDataWrite_cases value b with ⟨hr, h⟩ | ⟨hr, h⟩ | ⟨hr, h⟩ | ⟨-, hE, hF, h⟩
  · rw [h, hr]; rfl
  · rw [h, if_pos hr]; rfl
  · rw [h, hr]; rfl
  · rw [h, if_neg hE, if_neg hF]

/-- The three cursor registers mark the cursor's cell as it stands before and after the write; the others mark none. -/
theorem dirtyAt_crtDataWrite (value : Byte) (b : VideoAdapterState) (c : CellIndex) :
    dirtyAt (crtDataWrite value b).dirtyCell c =
      (dirtyAt b.dirtyCell c || (decide (b.crtAddressRegister ∈ [0x0A#8, 0x0E#8, 0x0F#8]) &&
        (decide (c = cursorIndex b) || decide (c = cursorIndex (crtDataWrite value b))))) := by
  rcases crtDataWrite_cases value b with ⟨hr, h⟩ | ⟨hr, h⟩ | ⟨hr, h⟩ | ⟨hA, hE, hF, h⟩
  · rw [h]
    simp [hr, cursorControlWrite, cursorIndex]
  · rw [h]
    simp [hr, cursorHighWrite, cursorIndex, Bool.or_assoc]
  · rw [h]
    simp [hr, cursorLowWrite, cursorIndex, Bool.or_assoc]
  · rw [h]
    simp [hA, hE, hF]

/-! ## What a traversal sees (43_render.md R165–R179) -/

/-- BLINK_EN is bit 5 (R28). -/
theorem blinkEnabled_eq_bit (mode : Byte) : blinkEnabled mode = mode.getLsbD 5 := by
  rw [blinkEnabled, show (0x20#8 : Byte) = BitVec.twoPow 8 5 from rfl, BitVec.and_twoPow]
  cases mode.getLsbD 5 <;> rfl

/-- decodeAttr reads of the mode register BLINK_EN only (R175, R178). -/
theorem decodeAttr_congr {mode mode' : Byte} (h : blinkEnabled mode = blinkEnabled mode') (ch attr : Byte) :
    decodeAttr ch attr mode = decodeAttr ch attr mode' := by
  have hbase : baseFlags attr mode = baseFlags attr mode' := by rw [baseFlags, baseFlags, h]
  rw [decodeAttr, decodeAttr, hbase, applyInverseBlink, applyInverseBlink, h]

/-- A record shows the buffer, the cursor's visibility and masked cell, and BLINK_EN (R166, R167, R170). -/
theorem cellRecord_congr {b b' : VideoAdapterState} (hbuffer : b.buffer = b'.buffer)
    (hvisible : b.cursorVisible = b'.cursorVisible) (hcursor : cursorIndex b = cursorIndex b')
    (hblink : blinkEnabled b.modeControlRegister = blinkEnabled b'.modeControlRegister) :
    cellRecord b = cellRecord b' := by
  funext c
  rw [cellRecord, cellRecord, cursorCell, cursorCell, hbuffer, hvisible, hcursor, decodeAttr_congr hblink]

/-- A scan looks at the block through globalDirty and the records only. -/
theorem scanCells_congr {b b' : VideoAdapterState} (hglobal : b.globalDirty = b'.globalDirty)
    (hrecord : cellRecord b = cellRecord b') (cells : List (CellIndex × Bool)) (answers : List Status) (taken : Nat) :
    scanCells b cells answers taken = scanCells b' cells answers taken := by
  induction cells generalizing answers taken with
  | nil => rfl
  | cons x cells ih => simp only [scanCells, hglobal, hrecord, ih]

/-! ## What a traversal does -/

theorem exec_traverse_next {s t : State} (h : exec .traverse s = .next t) :
    t.block = afterTraverse s ∧ t.response = .traversal (scanBlock s).records (scanBlock s).status := by
  cases h
  exact ⟨rfl, rfl⟩

/-- The records of the first m due cells are emitted and the first n of them are accepted, which clears exactly their
flags: `scanBlock_spec` where it does not matter whether the scan was aborted (n = m - 1) or not (n = m). -/
theorem scanBlock_emits_and_accepts (s : State) : ∃ n m, n ≤ m ∧ acceptsFirst s n ∧
    (scanBlock s).records = ((dueCells s.block).take m).map (cellRecord s.block) ∧
    ∀ c, dirtyAt (scannedFlags s) c = (dirtyAt s.block.dirtyCell c && !((dueCells s.block).take n).contains c) := by
  rcases scanBlock_spec s with ⟨haccepts, hrecords, -, hflags⟩ | ⟨n, -, ⟨haccepts, -⟩, hrecords, -, hflags⟩
  · refine ⟨_, _, Nat.le_refl _, haccepts, ?_, fun c => ?_⟩
    · rw [List.take_length, hrecords]
    · rw [List.take_length, hflags]
  · exact ⟨n, n + 1, Nat.le_succ n, haccepts, hrecords, hflags⟩

/-- No traversal marks a cell (R166). -/
theorem dirtyAt_of_dirtyAt_scannedFlags {s : State} {c : CellIndex} (h : dirtyAt (scannedFlags s) c = true) :
    dirtyAt s.block.dirtyCell c = true := by
  obtain ⟨n, m, -, -, -, hflags⟩ := scanBlock_emits_and_accepts s
  rw [hflags, Bool.and_eq_true] at h
  exact h.1

/-- A flag that a traversal clears belongs to a cell whose record was accepted (R172). -/
theorem exists_accepted_record_of_flag_fell {s : State} {c : CellIndex} (hbefore : dirtyAt s.block.dirtyCell c = true)
    (hafter : dirtyAt (scannedFlags s) c = false) :
    ∃ (k : Nat) (hk : k < (scanBlock s).records.length),
      (scanBlock s).records[k].cellIndex = c ∧ visitorAnswer s k = 0#32 := by
  obtain ⟨n, m, hnm, haccepts, hrecords, hflags⟩ := scanBlock_emits_and_accepts s
  have hmem : c ∈ (dueCells s.block).take n := by
    rw [hflags, hbefore, Bool.true_and, Bool.not_eq_false', List.contains_iff_mem] at hafter
    exact hafter
  obtain ⟨k, hk, hck⟩ := List.getElem_of_mem hmem
  rw [List.length_take, Nat.lt_min] at hk
  obtain ⟨hkn, hkdue⟩ := hk
  refine ⟨k, ?_, ?_, haccepts k hkn⟩
  · rw [hrecords, List.length_map, List.length_take]
    omega
  · simp only [hrecords, List.getElem_map, List.getElem_take] at hck ⊢
    exact hck

/-- A traversal that clears globalDirty was not aborted: it delivered every cell, each record was accepted, and no flag is
left (R173). -/
theorem full_delivery_of_globalDirty_fell {s : State} (hbefore : s.block.globalDirty = true)
    (hafter : (afterTraverse s).globalDirty = false) :
    (scanBlock s).records.map (fun r => r.cellIndex.toNat) = List.range 2048 ∧ acceptsFirst s 2048 ∧
      ∀ c, dirtyAt (scannedFlags s) c = false := by
  have hdue : dueCells s.block = allCells := dueCells_of_globalDirty hbefore
  rcases scanBlock_spec s with ⟨haccepts, hrecords, -, hflags⟩ | ⟨n, -, -, -, haborted, -⟩
  · rw [hdue] at haccepts hrecords hflags
    refine ⟨?_, allCells_length ▸ haccepts, fun c => ?_⟩
    · rw [hrecords, List.map_map, ← allCells_toNat]
      rfl
    · rw [hflags, List.contains_iff_mem.mpr (mem_allCells c), Bool.not_true, Bool.and_false]
  · simp [hbefore, haborted] at hafter

/-! ## What one operation can do to each field of the block (10_state.md R22–R30) -/

section Fields

variable (i : Instr) (s : State)

/-- A dirty flag comes out of an operation as it was, or through one of the four operations that touch the flags. -/
theorem dirtyAt_blockAfter (c : CellIndex) :
    dirtyAt (blockAfter i s).dirtyCell c = dirtyAt s.block.dirtyCell c ∨
    (∃ a v, i = .memWrite a v ∧ dirtyAt (blockAfter i s).dirtyCell c =
      (dirtyAt s.block.dirtyCell c || decide (c = owningCell (bufferOffset s.params a)))) ∨
    (∃ n v, i = .outCrtData n v ∧ s.block.crtAddressRegister ∈ [0x0A#8, 0x0E#8, 0x0F#8] ∧
      dirtyAt (blockAfter i s).dirtyCell c =
        (dirtyAt s.block.dirtyCell c || (decide (c = cursorIndex s.block) || decide (c = cursorIndex (blockAfter i s))))) ∨
    (i = .reset ∧ dirtyAt (blockAfter i s).dirtyCell c = true) ∨
    (i = .traverse ∧ dirtyAt (blockAfter i s).dirtyCell c = dirtyAt (scannedFlags s) c) := by
  cases i with
  | memWrite a v => exact .inr (.inl ⟨a, v, rfl, dirtyAt_markCell ..⟩)
  | outCrtData n v =>
    have h := dirtyAt_crtDataWrite v (setGlobalDirty s.block) c
    by_cases hr : s.block.crtAddressRegister ∈ [0x0A#8, 0x0E#8, 0x0F#8]
    · rw [setGlobalDirty_crtAddressRegister, decide_eq_true hr, Bool.true_and] at h
      exact .inr (.inr (.inl ⟨n, v, rfl, hr, h⟩))
    · rw [setGlobalDirty_crtAddressRegister, decide_eq_false hr, Bool.false_and, Bool.or_false] at h
      exact .inl h
  | reset => exact .inr (.inr (.inr (.inl ⟨rfl, dirtyAt_allDirty c⟩)))
  | traverse => exact .inr (.inr (.inr (.inr ⟨rfl, rfl⟩)))
  | _ => exact .inl rfl

/-- Only a traversal clears a dirty flag. -/
theorem eq_traverse_of_dirtyAt_fell {c : CellIndex} (hbefore : dirtyAt s.block.dirtyCell c = true)
    (hafter : dirtyAt (blockAfter i s).dirtyCell c = false) : i = .traverse := by
  rcases dirtyAt_blockAfter i s c with h | ⟨_, _, -, h⟩ | ⟨_, _, -, -, h⟩ | ⟨-, h⟩ | ⟨h, -⟩
  · simp [h, hbefore] at hafter
  · simp [h, hbefore] at hafter
  · simp [h, hbefore] at hafter
  · simp [h] at hafter
  · exact h

theorem blockAfter_globalDirty :
    (blockAfter i s).globalDirty = s.block.globalDirty ∨
    ((i.isPortWrite = true ∨ i = .reset) ∧ (blockAfter i s).globalDirty = true) ∨
    (i = .traverse ∧ (blockAfter i s).globalDirty = (s.block.globalDirty && (scanBlock s).aborted.isSome)) := by
  cases i with
  | outMode v => exact .inr (.inl ⟨.inl rfl, rfl⟩)
  | outCrtData n v => exact .inr (.inl ⟨.inl rfl, crtDataWrite_globalDirty v (setGlobalDirty s.block)⟩)
  | outCrtAddr p v => exact .inr (.inl ⟨.inl rfl, rfl⟩)
  | outOdd p v => exact .inr (.inl ⟨.inl rfl, rfl⟩)
  | reset => exact .inr (.inl ⟨.inr rfl, rfl⟩)
  | traverse => exact .inr (.inr ⟨rfl, rfl⟩)
  | _ => exact .inl rfl

/-- Only a traversal clears globalDirty. -/
theorem eq_traverse_of_globalDirty_fell (hbefore : s.block.globalDirty = true)
    (hafter : (blockAfter i s).globalDirty = false) : i = .traverse := by
  rcases blockAfter_globalDirty i s with h | ⟨-, h⟩ | ⟨h, -⟩
  · simp [h, hbefore] at hafter
  · simp [h] at hafter
  · exact h

theorem blockAfter_cursorVisible :
    (blockAfter i s).cursorVisible = s.block.cursorVisible ∨
    (∃ n v, i = .outCrtData n v ∧ s.block.crtAddressRegister = 0x0A#8) ∨ i = .reset := by
  cases i with
  | outCrtData n v =>
    by_cases hA : s.block.crtAddressRegister = 0x0A#8
    · exact .inr (.inl ⟨n, v, rfl, hA⟩)
    · exact .inl ((crtDataWrite_cursorVisible v (setGlobalDirty s.block)).trans (if_neg hA))
  | reset => exact .inr (.inr rfl)
  | _ => exact .inl rfl

theorem blockAfter_cursorOffset :
    (blockAfter i s).cursorOffset = s.block.cursorOffset ∨
    (∃ n v, i = .outCrtData n v ∧
      (s.block.crtAddressRegister = 0x0E#8 ∨ s.block.crtAddressRegister = 0x0F#8)) ∨ i = .reset := by
  cases i with
  | outCrtData n v =>
    by_cases hr : s.block.crtAddressRegister = 0x0E#8 ∨ s.block.crtAddressRegister = 0x0F#8
    · exact .inr (.inl ⟨n, v, rfl, hr⟩)
    · obtain ⟨hE, hF⟩ := not_or.mp hr
      exact .inl ((crtDataWrite_cursorOffset v (setGlobalDirty s.block)).trans ((if_neg hE).trans (if_neg hF)))
  | reset => exact .inr (.inr rfl)
  | _ => exact .inl rfl

theorem blockAfter_refreshToggle :
    (blockAfter i s).refreshToggle = s.block.refreshToggle ∨
    (i = .inStatus ∧ (blockAfter i s).refreshToggle = s.block.refreshToggle ^^^ statusToggleMask) := by
  cases i with
  | inStatus => exact .inr ⟨rfl, rfl⟩
  | outCrtData n v => exact .inl (crtDataWrite_refreshToggle v (setGlobalDirty s.block))
  | _ => exact .inl rfl

theorem blockAfter_modeControlRegister :
    (blockAfter i s).modeControlRegister = s.block.modeControlRegister ∨ ∃ v, i = .outMode v := by
  cases i with
  | outMode v => exact .inr ⟨v, rfl⟩
  | outCrtData n v => exact .inl (crtDataWrite_modeControlRegister v (setGlobalDirty s.block))
  | _ => exact .inl rfl

theorem blockAfter_crtAddressRegister :
    (blockAfter i s).crtAddressRegister = s.block.crtAddressRegister ∨ ∃ p v, i = .outCrtAddr p v := by
  cases i with
  | outCrtData n v => exact .inl (crtDataWrite_crtAddressRegister v (setGlobalDirty s.block))
  | outCrtAddr p v => exact .inr ⟨p, v, rfl⟩
  | _ => exact .inl rfl

theorem blockAfter_crtRegisterFile :
    (blockAfter i s).crtRegisterFile = s.block.crtRegisterFile ∨ ∃ n v, i = .outCrtData n v := by
  cases i with
  | outCrtData n v => exact .inr ⟨n, v, rfl⟩
  | _ => exact .inl rfl

/-- The dirty map as a whole changes only by the four operations that touch a flag. -/
theorem blockAfter_dirtyCell :
    (blockAfter i s).dirtyCell = s.block.dirtyCell ∨
    (∃ a v, i = .memWrite a v) ∨
    (∃ n v, i = .outCrtData n v ∧ s.block.crtAddressRegister ∈ [0x0A#8, 0x0E#8, 0x0F#8]) ∨
    i = .reset ∨ i = .traverse := by
  by_contra hnone
  obtain ⟨hne, hother⟩ := not_or.mp hnone
  refine hne (dirtyMap_ext fun c => (dirtyAt_blockAfter i s c).resolve_right fun h => hother ?_)
  rcases h with ⟨a, v, rfl, -⟩ | ⟨n, v, rfl, hr, -⟩ | ⟨rfl, -⟩ | ⟨rfl, -⟩
  · exact .inl ⟨a, v, rfl⟩
  · exact .inr (.inl ⟨n, v, rfl, hr⟩)
  · exact .inr (.inr (.inl rfl))
  · exact .inr (.inr (.inr rfl))

end Fields

/-! ## The status toggle (41_port_io.md R121) -/

theorem toggled_and_fixedBits (v : Byte) : (v ^^^ statusToggleMask) &&& 0xF6#8 = v &&& 0xF6#8 := by
  have hmask : ∀ j, j < 8 → (statusToggleMask.getLsbD j && (0xF6#8).getLsbD j) = false := by decide
  apply BitVec.eq_of_getLsbD_eq
  intro j hj
  rw [BitVec.getLsbD_and, BitVec.getLsbD_and, BitVec.getLsbD_xor, Bool.and_xor_distrib_right, hmask j hj, Bool.xor_false]

theorem toggled_bits_agree (v : Byte) :
    ((v ^^^ statusToggleMask).getLsbD 0 == (v ^^^ statusToggleMask).getLsbD 3) = (v.getLsbD 0 == v.getLsbD 3) := by
  have h0 : statusToggleMask.getLsbD 0 = true := by decide
  have h3 : statusToggleMask.getLsbD 3 = true := by decide
  rw [BitVec.getLsbD_xor, BitVec.getLsbD_xor, h0, h3]
  cases v.getLsbD 0 <;> cases v.getLsbD 3 <;> rfl

/-! ## The obligations -/

/-- Settles O52: MEM_WRITE keeps the canonical form and no other operation touches the buffer or the parameters. -/
theorem stepKeepsTheInvariant : Obligations.StepKeepsTheInvariant := by
  intro s t hinv hstep
  rcases step_cases hstep with ⟨-, rfl⟩ | ⟨w, rest, i, -, -, hexec⟩
  · exact hinv
  · obtain ⟨hwf, hlegal⟩ := hinv
    obtain ⟨hblock, hparams, -⟩ := exec_next hexec
    refine ⟨?_, hparams ▸ hlegal⟩
    rw [hblock]
    rcases blockAfter_buffer i { s with requests := rest } with h | ⟨a, v, -, h⟩
    · rw [h]; exact hwf
    · rw [h]; exact Memory.write_wf v (bufferOffset s.params a).isLt hwf

/-- Settles O53: only TRAVERSE clears globalDirty, and one that does was not aborted. -/
theorem globalDirtyFallsOnlyAfterAFullDelivery : Obligations.GlobalDirtyFallsOnlyAfterAFullDelivery := by
  intro s t hstep hbefore hafter
  rcases step_cases hstep with ⟨-, rfl⟩ | ⟨w, rest, i, -, -, hexec⟩
  · simp [hbefore] at hafter
  · obtain ⟨hblock, -, -⟩ := exec_next hexec
    rw [hblock] at hafter
    obtain rfl := eq_traverse_of_globalDirty_fell i { s with requests := rest } hbefore hafter
    obtain ⟨hcells, haccepts, hclean⟩ := full_delivery_of_globalDirty_fell hbefore hafter
    obtain ⟨-, hresponse⟩ := exec_traverse_next hexec
    exact ⟨_, _, hresponse, hcells, haccepts, hblock ▸ hclean⟩

/-- Settles O54: only TRAVERSE clears a dirty flag, and it clears those of the accepted records. -/
theorem dirtyFlagsFallOnlyByDelivery : Obligations.DirtyFlagsFallOnlyByDelivery := by
  intro s t c hstep hbefore hafter
  rcases step_cases hstep with ⟨-, rfl⟩ | ⟨w, rest, i, -, -, hexec⟩
  · simp [hbefore] at hafter
  · obtain ⟨hblock, -, -⟩ := exec_next hexec
    rw [hblock] at hafter
    obtain rfl := eq_traverse_of_dirtyAt_fell i { s with requests := rest } hbefore hafter
    obtain ⟨-, hresponse⟩ := exec_traverse_next hexec
    exact ⟨_, _, hresponse, exists_accepted_record_of_flag_fell hbefore hafter⟩

/-- Settles O13, by R132's merge bit by bit. -/
theorem cursorHighRegisterStoresAndReadsBack : Obligations.CursorHighRegisterStoresAndReadsBack := by
  refine ⟨fun s n value hr => ⟨_, exec_outCrtData n value s, ?_, fun j _ => ?_⟩, fun s n hr => ?_⟩
  · simp [hr]
  · simp [crtDataWrite_cursorOffset, hr, withCursorHigh_bit]
  · rw [exec_inCrtData, hr]

/-- Settles O14, by R133's merge bit by bit. -/
theorem cursorLowRegisterStoresAndReadsBack : Obligations.CursorLowRegisterStoresAndReadsBack := by
  refine ⟨fun s n value hr => ⟨_, exec_outCrtData n value s, ?_, fun j hj => ?_⟩, fun s n hr => ?_⟩
  · simp [hr]
  · simp [crtDataWrite_cursorOffset, hr, withCursorLow_bit, hj]
  · rw [exec_inCrtData, hr]

/-- Settles O29: the two states have the same records, so that their scans are the same. -/
theorem traverseShowsOnlyBit5OfModeAndTheMaskedCursor :
    Obligations.TraverseShowsOnlyBit5OfModeAndTheMaskedCursor := by
  intro s s' t t' hbuffer hdirty hglobal hvisible hcursor hmode hanswers htaken hexec hexec'
  have hindex : cursorIndex s.block = cursorIndex s'.block := by
    apply BitVec.eq_of_toNat_eq
    rw [cursorIndex_toNat, cursorIndex_toNat]
    exact hcursor
  have hblink : blinkEnabled s.block.modeControlRegister = blinkEnabled s'.block.modeControlRegister := by
    rw [blinkEnabled_eq_bit, blinkEnabled_eq_bit, hmode]
  have hscan : scanBlock s = scanBlock s' := by
    rw [scanBlock, scanBlock, hdirty, hanswers, htaken]
    exact scanCells_congr hglobal (cellRecord_congr hbuffer hvisible hindex hblink) ..
  obtain ⟨hblock, hresponse⟩ := exec_traverse_next hexec
  obtain ⟨hblock', hresponse'⟩ := exec_traverse_next hexec'
  rw [hblock, hblock', hresponse, hresponse', afterTraverse_dirtyCell, afterTraverse_dirtyCell,
    afterTraverse_globalDirty, afterTraverse_globalDirty, scannedFlags, scannedFlags]
  simp only [hscan, hglobal, and_self]

/-- Settles O34: the two lists have the same pairs, and each is rising. -/
theorem equalContentsAreEqualMemories : Obligations.EqualContentsAreEqualMemories := by
  intro m m' hm hm' hread
  have hperm : m.Perm m' := (List.perm_ext_iff_of_nodup (Memory.nodup_of_wf hm) (Memory.nodup_of_wf hm')).mpr fun e =>
    ⟨Memory.mem_of_read_eq hm hread, Memory.mem_of_read_eq hm' fun o ho => (hread o ho).symm⟩
  exact hperm.eq_of_pairwise (fun x y _ _ hxy hyx => absurd hxy (Nat.lt_asymm hyx)) hm.1 hm'.1

/-- Settles O35, by writing the 4096 bytes one after another. -/
theorem everyFillIsAFrameBuffer : Obligations.EveryFillIsAFrameBuffer := fun fill =>
  Memory.exists_fill_below fill 4096 (Nat.le_refl 4096)

/-- Settles O55, by the operations that touch the flags; a traversal marks no cell. -/
theorem dirtyFlagsRiseOnlyByTheirThreeCauses : Obligations.DirtyFlagsRiseOnlyByTheirThreeCauses := by
  intro s t i c hexec hbefore hafter
  obtain ⟨hblock, -, -⟩ := exec_next hexec
  rw [hblock] at hafter ⊢
  rcases dirtyAt_blockAfter i s c with h | ⟨a, v, rfl, h⟩ | ⟨n, v, rfl, hr, h⟩ | ⟨rfl, -⟩ | ⟨-, h⟩
  · simp [h, hbefore] at hafter
  · rw [h, hbefore, Bool.false_or, decide_eq_true_eq] at hafter
    exact .inl ⟨a, v, rfl, by rw [hafter, owningCell_toNat, bufferOffset_toNat]⟩
  · rw [h, hbefore, Bool.false_or, Bool.or_eq_true, decide_eq_true_eq, decide_eq_true_eq] at hafter
    refine .inr (.inl ⟨n, v, rfl, hr, hafter.imp (fun hc => ?_) (fun hc => ?_)⟩)
    · rw [hc, cursorIndex_toNat, specCursorCell]
    · rw [hc, cursorIndex_toNat, specCursorCell]
  · exact .inr (.inr rfl)
  · simp [dirtyAt_of_dirtyAt_scannedFlags (h.symm.trans hafter)] at hbefore

/-- Settles O56, field by field. -/
theorem eachFieldChangesOnlyByItsOwnOperations : Obligations.EachFieldChangesOnlyByItsOwnOperations := by
  intro s t i hexec
  obtain ⟨hblock, -, -⟩ := exec_next hexec
  rw [hblock]
  refine ⟨fun hne => ?_, (blockAfter_dirtyCell i s).resolve_left, fun hafter hbefore => ?_,
    fun hafter hbefore => eq_traverse_of_globalDirty_fell i s hbefore hafter,
    (blockAfter_cursorVisible i s).resolve_left, (blockAfter_cursorOffset i s).resolve_left, fun hne => ?_,
    (blockAfter_modeControlRegister i s).resolve_left, (blockAfter_crtAddressRegister i s).resolve_left,
    (blockAfter_crtRegisterFile i s).resolve_left⟩
  · obtain ⟨a, v, hi, -⟩ := (blockAfter_buffer i s).resolve_left hne
    exact ⟨a, v, hi⟩
  · rcases blockAfter_globalDirty i s with h | ⟨h, -⟩ | ⟨-, h⟩
    · simp [h, hbefore] at hafter
    · exact h
    · simp [h, hbefore] at hafter
  · exact ((blockAfter_refreshToggle i s).resolve_left hne).1

/-- Settles O57: only IN_STATUS changes refreshToggle, and it inverts bits 3 and 0 together. -/
theorem refreshToggleKeepsItsFixedBits : Obligations.RefreshToggleKeepsItsFixedBits := by
  intro s t hstep
  rcases step_cases hstep with ⟨-, rfl⟩ | ⟨w, rest, i, -, -, hexec⟩
  · exact ⟨rfl, rfl⟩
  · obtain ⟨hblock, -, -⟩ := exec_next hexec
    rw [hblock]
    rcases blockAfter_refreshToggle i { s with requests := rest } with h | ⟨-, h⟩
    · rw [h]; exact ⟨rfl, rfl⟩
    · rw [h]; exact ⟨toggled_and_fixedBits _, toggled_bits_agree _⟩

/-- Settles O9: such a write is the store alone, and the read back returns the stored byte. -/
theorem otherCrtRegistersArePlainStorage : Obligations.OtherCrtRegistersArePlainStorage := by
  intro s n value hA hE hF
  refine ⟨_, exec_outCrtData n value s, fun i => ?_, ?_, fun m => ?_⟩
  · simp
  · rw [crtDataWrite_of_plain value (b := setGlobalDirty s.block) hA hE hF]; rfl
  · simp [exec_inCrtData]

end Sys2Proof.Machine
end

section
/-! PROOFS. The obligations of spec/20_memory.md. The rules come first: when two addresses are aliases, what the two memory
operations answer, what a record of a traversal shows, and the step that has an operation to run. -/

namespace Sys2Proof.Machine

/-! ## Aliases (20_memory.md R53) -/

/-- Two addresses reach the same byte exactly where they differ by a multiple of 4096. -/
theorem bufferOffset_eq_iff (p : Params) (a a' : Addr) :
    bufferOffset p a = bufferOffset p a' ↔ a.toNat % 4096 = a'.toNat % 4096 := by
  rw [← BitVec.toNat_inj, bufferOffset_toNat, bufferOffset_toNat, specOffset, specOffset]
  omega

/-! ## The memory operations (40_framebuffer.md R110, R111) -/

theorem exec_memRead (addr : Addr) (s : State) :
    exec (.memRead addr) s =
      .next { s with response := .byte (s.block.buffer.read (bufferOffset s.params addr).toNat) } := rfl

theorem exec_memWrite (addr : Addr) (value : Byte) (s : State) :
    exec (.memWrite addr value) s =
      .next (respond s (storeByte s.block (bufferOffset s.params addr) value) .noResult) := rfl

/-- A read through a second address after a write sees the value exactly where the two addresses are aliases, and
otherwise the old byte (R53). -/
theorem read_storeByte_bufferOffset (p : Params) (b : VideoAdapterState) (a a' : Addr) (value : Byte) :
    (storeByte b (bufferOffset p a) value).buffer.read (bufferOffset p a').toNat =
      if a.toNat % 4096 = a'.toNat % 4096 then value else b.buffer.read (bufferOffset p a').toNat := by
  have halias : (bufferOffset p a').toNat = (bufferOffset p a).toNat ↔ a.toNat % 4096 = a'.toNat % 4096 := by
    rw [BitVec.toNat_inj, eq_comm, bufferOffset_eq_iff]
  rw [storeByte_buffer, Memory.read_write]
  simp only [halias]

/-! ## The records of a traversal (43_render.md R167, R169, R170) -/

/-- Every record, of an aborted traversal too, is that of its own cell in the block before the scan, and that cell was
due. -/
theorem scanBlock_record {s : State} {r : CellRecord} (h : r ∈ (scanBlock s).records) :
    r.cellIndex ∈ dueCells s.block ∧ r = cellRecord s.block r.cellIndex := by
  obtain ⟨-, m, -, -, hrecords, -⟩ := scanBlock_emits_and_accepts s
  rw [hrecords] at h
  obtain ⟨c, hc, rfl⟩ := List.mem_map.mp h
  exact ⟨List.mem_of_mem_take hc, rfl⟩

/-! ## The step (20_memory.md R62, R63) -/

/-- A step whose first request asks for an operation runs it, with the request taken from the queue. -/
theorem step_of_requestedInstr {s : State} {q : Request} {rest : List Request} {i : Instr}
    (hqueue : s.requests = q :: rest) (hinstr : requestedInstr s.params.addrWidth q = .ok i) :
    step s = exec i { s with requests := rest } := by
  have hnext : nextRequest s = some (q, { s with requests := rest }) := by rw [nextRequest, hqueue]
  simp only [step, hnext, hinstr]

theorem requestedInstr_word {addrWidth : Nat} {t : Txn} {i : Instr} (h : decode addrWidth t = .ok i) :
    requestedInstr addrWidth (.word t) = .ok i := by
  rw [requestedInstr, h]

/-! ## The obligations -/

/-- Settles O23: every record is the record of its own cell, and that one decodes the cell's two bytes. -/
theorem recordsDecodeTheCellsTwoBytes : Obligations.RecordsDecodeTheCellsTwoBytes := by
  intro s t records status hexec hresponse r hr
  obtain ⟨-, hscan⟩ := exec_traverse_next hexec
  obtain ⟨rfl, -⟩ := Response.traversal.inj (hresponse.symm.trans hscan)
  obtain ⟨-, hrecord⟩ := scanBlock_record hr
  rw [hrecord]
  rfl

/-- Settles O32: 4096 divides the 2^32 at which the model's subtraction wraps. -/
theorem bufferOffsetIsTheNonNegativeRemainder : Obligations.BufferOffsetIsTheNonNegativeRemainder := fun p a =>
  ⟨bufferOffset_toNat p a, bufferOffset_toNat p a ▸ (bufferOffset p a).isLt⟩

/-- Settles O33: aliases have one buffer offset, and a write at that offset leaves every other one alone. -/
theorem writesAreSeenThroughEveryAlias : Obligations.WritesAreSeenThroughEveryAlias := by
  intro s a a' value
  have hread := read_storeByte_bufferOffset s.params s.block a a' value
  refine ⟨_, _, exec_memWrite a value s, exec_memRead a' s, fun halias => ⟨?_, ?_⟩, fun hother => ?_⟩
  · rw [exec_memRead, (bufferOffset_eq_iff s.params a a').mpr halias]
  · rw [exec_memRead, respond_block, respond_params, hread, if_pos halias]
  · rw [exec_memRead, respond_block, respond_params, hread, if_neg hother]

/-- Settles O47: the word is the first request, and what it asks for is what it decodes to. -/
theorem stepRunsTheDecodedOperation : Obligations.StepRunsTheDecodedOperation := fun _ _ _ _ hqueue hdecode =>
  step_of_requestedInstr hqueue (requestedInstr_word hdecode)

end Sys2Proof.Machine
end

section
/-! PROOFS. The obligations of spec/30_encoding.md. The rules come first, in the order of the model's definitions: the port
rows of R87 and R88, the decoder on a packed word and what every word decodes to, the rows of the opcode table as the fields
they fix, the packed forms of R92 and R93, and R98's `setcursor`. The obligations follow, each assembled from them. -/

namespace Sys2Proof

/-! ## The CRT data ports (30_encoding.md R87) -/

/-- A CRT data port has its number in bits 2:1, the ones that R87's field test leaves free. -/
theorem crtDataAlias_shifted (p : Port) : (crtDataAlias p).setWidth 16 <<< 1 = p &&& 0x0006#16 := by
  have hmask : ∀ j, j < 16 → (0x0006#16).getLsbD j = (decide (1 ≤ j) && decide (j < 3)) := by decide
  apply BitVec.eq_of_getLsbD_eq
  intro j hj
  rw [BitVec.getLsbD_and, hmask j hj, BitVec.getLsbD_shiftLeft, BitVec.getLsbD_setWidth, crtDataAlias,
    BitVec.getLsbD_extractLsb']
  by_cases h0 : j < 1
  · simp [h0]
  · have h2 : (j - 1 < 2) = (j < 3) := by rw [eq_iff_iff]; omega
    simp [hj, h0, h2, show 1 ≤ j by omega, show 1 + (j - 1) = j by omega, show j - 1 < 16 by omega, Bool.and_comm]

/-- R87's field test takes the four CRT data ports and no other port. -/
theorem matchesCrtData_eq (p : Port) : matchesCrtData p = isCrtDataPort p := by
  rw [Bool.eq_iff_iff]
  constructor
  · intro h
    have hfixed : p &&& 0xFFF9#16 = 0x3B1#16 := beq_iff_eq.mp h
    have hp : crtDataPort (crtDataAlias p) = p := by
      rw [crtDataPort, crtDataAlias_shifted, ← hfixed, ← BitVec.and_or_distrib_left,
        show 0xFFF9#16 ||| 0x0006#16 = BitVec.allOnes 16 by decide, BitVec.and_allOnes]
    obtain ⟨-, -, hmem⟩ := crtDataPort_spec (crtDataAlias p)
    exact hp ▸ hmem
  · intro h
    obtain ⟨-, hmatch, -⟩ := crtDataPort_spec (crtDataAlias p)
    exact crtDataPort_alias h ▸ hmatch

theorem exists_eq_crtDataPort {p : Port} (h : isCrtDataPort p = true) : ∃ n, p = crtDataPort n :=
  ⟨crtDataAlias p, (crtDataPort_alias h).symm⟩

theorem isCrtDataPort_of_even {p : Port} (heven : p.getLsbD 0 = false) : isCrtDataPort p = false := by
  have hodd : ∀ n, (crtDataPort n).getLsbD 0 = true := by decide
  cases hcrt : isCrtDataPort p with
  | false => rfl
  | true =>
    obtain ⟨n, rfl⟩ := exists_eq_crtDataPort hcrt
    exact absurd ((hodd n).symm.trans heven) (by decide)

/-! ## The rows of IO_IN and IO_OUT (30_encoding.md R87, R88) -/

theorem decodeIn_crtDataPort : ∀ n : BitVec 2, decodeIn (crtDataPort n) = .inCrtData n := by decide

theorem decodeIn_of_other {p : Port} (hstatus : p ≠ Config.statusPort) (hcrt : isCrtDataPort p = false) :
    decodeIn p = .inOther p := by
  simp [decodeIn, hstatus, matchesCrtData_eq, hcrt]

theorem decodeIn_cases (p : Port) :
    (p = Config.statusPort ∧ decodeIn p = .inStatus) ∨
    (∃ n, p = crtDataPort n ∧ decodeIn p = .inCrtData n) ∨
    (p ≠ Config.statusPort ∧ isCrtDataPort p = false ∧ decodeIn p = .inOther p) := by
  by_cases hstatus : p = Config.statusPort
  · exact .inl ⟨hstatus, hstatus ▸ rfl⟩
  cases hcrt : isCrtDataPort p with
  | true =>
    obtain ⟨n, rfl⟩ := exists_eq_crtDataPort hcrt
    exact .inr (.inl ⟨n, rfl, decodeIn_crtDataPort n⟩)
  | false => exact .inr (.inr ⟨hstatus, rfl, decodeIn_of_other hstatus hcrt⟩)

theorem decodeOut_crtDataPort (n : BitVec 2) (value : Byte) :
    decodeOut (crtDataPort n) value = .outCrtData n value := by
  have hmode : ∀ n, crtDataPort n ≠ Config.modePort := by decide
  obtain ⟨halias, hmatch, -⟩ := crtDataPort_spec n
  simp [decodeOut, hmode n, hmatch, halias]

theorem decodeOut_of_even {p : Port} (hmode : p ≠ Config.modePort) (heven : p.getLsbD 0 = false) (value : Byte) :
    decodeOut p value = .outCrtAddr p value := by
  simp only [decodeOut, beq_iff_eq, hmode, matchesCrtData_eq, isCrtDataPort_of_even heven, heven, Bool.false_eq_true,
    if_false, Bool.not_false, if_true]

theorem decodeOut_of_odd {p : Port} (hodd : p.getLsbD 0 = true) (hcrt : isCrtDataPort p = false) (value : Byte) :
    decodeOut p value = .outOdd p value := by
  have hmode : p ≠ Config.modePort := by rintro rfl; exact absurd hodd (by decide)
  simp [decodeOut, hmode, matchesCrtData_eq, hcrt, hodd]

theorem decodeOut_cases (p : Port) (value : Byte) :
    (p = Config.modePort ∧ decodeOut p value = .outMode value) ∨
    (∃ n, p = crtDataPort n ∧ decodeOut p value = .outCrtData n value) ∨
    (p ≠ Config.modePort ∧ p.getLsbD 0 = false ∧ decodeOut p value = .outCrtAddr p value) ∨
    (p.getLsbD 0 = true ∧ isCrtDataPort p = false ∧ decodeOut p value = .outOdd p value) := by
  by_cases hmode : p = Config.modePort
  · exact .inl ⟨hmode, hmode ▸ rfl⟩
  cases hcrt : isCrtDataPort p with
  | true =>
    obtain ⟨n, rfl⟩ := exists_eq_crtDataPort hcrt
    exact .inr (.inl ⟨n, rfl, decodeOut_crtDataPort n value⟩)
  | false =>
    cases hbit : p.getLsbD 0 with
    | false => exact .inr (.inr (.inl ⟨hmode, rfl, decodeOut_of_even hmode hbit value⟩))
    | true => exact .inr (.inr (.inr ⟨rfl, rfl, decodeOut_of_odd hbit hcrt value⟩))

section Ports

variable (addrWidth : Nat) (p : Port) (value : Byte)

theorem wellFormed_decodeIn : (decodeIn p).wellFormed addrWidth = true := by
  rcases decodeIn_cases p with ⟨-, h⟩ | ⟨n, -, h⟩ | ⟨hstatus, hcrt, h⟩
  · rw [h]; rfl
  · rw [h]; rfl
  · rw [h]; simp [Instr.wellFormed, hstatus, hcrt]

theorem encode_decodeIn : encode (decodeIn p) = packTxn 0x2#4 0#4 (p.setWidth 32) 0#8 := by
  rcases decodeIn_cases p with ⟨rfl, h⟩ | ⟨n, rfl, h⟩ | ⟨-, -, h⟩ <;> rw [h] <;> rfl

theorem careMask_decodeIn : (decodeIn p).careMask = 0xFFFFFFFFFF00#48 := by
  rcases decodeIn_cases p with ⟨-, h⟩ | ⟨n, -, h⟩ | ⟨-, -, h⟩ <;> rw [h] <;> rfl

theorem wellFormed_decodeOut : (decodeOut p value).wellFormed addrWidth = true := by
  rcases decodeOut_cases p value with ⟨-, h⟩ | ⟨n, -, h⟩ | ⟨hmode, heven, h⟩ | ⟨hodd, hcrt, h⟩
  · rw [h]; rfl
  · rw [h]; rfl
  · rw [h, Instr.wellFormed, heven]; simpa using hmode
  · rw [h, Instr.wellFormed, hodd, hcrt]; rfl

theorem encode_decodeOut : encode (decodeOut p value) = packTxn 0x3#4 0#4 (p.setWidth 32) value := by
  rcases decodeOut_cases p value with ⟨rfl, h⟩ | ⟨n, rfl, h⟩ | ⟨-, -, h⟩ | ⟨-, -, h⟩ <;> rw [h] <;> rfl

end Ports

/-! ## The decoder on a packed word (30_encoding.md R80–R85) -/

theorem withinAddrWidth_iff (addrWidth : Nat) (a : Addr) :
    withinAddrWidth addrWidth a = true ↔ a.toNat < 2 ^ addrWidth := by
  rw [withinAddrWidth_eq, addressFits, decide_eq_true_iff]

theorem decodePort_of_wide {a : Addr} (hwide : 2 ^ 16 ≤ a.toNat) : decodePort a = .error (.widePort a) := by
  rw [decodePort, if_neg (by omega)]

section Kinds

variable (addrWidth : Nat) (p : Port) (a : Addr) (d : Byte)

theorem decode_packTxn (k : BitVec 4) : decode addrWidth (packTxn k 0#4 a d) = decodeKind addrWidth k a d := by
  simp [decode]

theorem decode_memRead :
    decode addrWidth (packTxn 0x0#4 0#4 a d) =
      if a.toNat < 2 ^ addrWidth then .ok (.memRead a) else .error (.wideAddress a) := by
  rw [decode_packTxn]
  exact if_congr (withinAddrWidth_iff addrWidth a) rfl rfl

theorem decode_memWrite :
    decode addrWidth (packTxn 0x1#4 0#4 a d) =
      if a.toNat < 2 ^ addrWidth then .ok (.memWrite a d) else .error (.wideAddress a) := by
  rw [decode_packTxn]
  exact if_congr (withinAddrWidth_iff addrWidth a) rfl rfl

theorem decode_portRead : decode addrWidth (packTxn 0x2#4 0#4 (p.setWidth 32) d) = .ok (decodeIn p) := by
  rw [decode_packTxn]
  exact congrArg (Except.map decodeIn) (decodePort_setWidth p)

theorem decode_portWrite : decode addrWidth (packTxn 0x3#4 0#4 (p.setWidth 32) d) = .ok (decodeOut p d) := by
  rw [decode_packTxn]
  exact congrArg (Except.map (decodeOut · d)) (decodePort_setWidth p)

theorem decode_reset : decode addrWidth (packTxn 0x4#4 0#4 a d) = .ok .reset := decode_packTxn ..

theorem decode_traverse : decode addrWidth (packTxn 0x5#4 0#4 a d) = .ok .traverse := decode_packTxn ..

theorem decode_install : decode addrWidth (packTxn 0x6#4 0#4 a d) = .ok .install := decode_packTxn ..

theorem decode_identify : decode addrWidth (packTxn 0x7#4 0#4 a d) = .ok .identify := decode_packTxn ..

variable {a}

theorem decode_reservedField {z : BitVec 4} (hz : z ≠ 0#4) (k : BitVec 4) :
    decode addrWidth (packTxn k z a d) = .error (.reservedField z) := by
  simp [decode, hz]

theorem decode_reservedKind {k : BitVec 4} (hk : 8 ≤ k.toNat) :
    decode addrWidth (packTxn k 0#4 a d) = .error (.reservedKind k) := by
  rw [decode_packTxn, decodeKind]
  split
  case h_9 => rfl
  all_goals omega

theorem decode_widePort {k : BitVec 4} (hk : k = 0x2#4 ∨ k = 0x3#4) (hwide : 2 ^ 16 ≤ a.toNat) :
    decode addrWidth (packTxn k 0#4 a d) = .error (.widePort a) := by
  rw [decode_packTxn]
  rcases hk with rfl | rfl
  · exact congrArg (Except.map decodeIn) (decodePort_of_wide hwide)
  · exact congrArg (Except.map (decodeOut · d)) (decodePort_of_wide hwide)

end Kinds

/-! ## What every word decodes to, said once -/

/-- The decoder as a relation: `Decodes addrWidth t r` says that the fields of the word t are ones that give the result r,
one constructor per kind of R81 and per case of R82. `decodes_decode` ties it to `decode`. -/
inductive Decodes (addrWidth : Nat) : Txn → Except DecodeError Instr → Prop
  /-- R82 (b). -/
  | reservedField (k : BitVec 4) {z : BitVec 4} (a : Addr) (d : Byte) (hz : z ≠ 0#4) :
    Decodes addrWidth (packTxn k z a d) (.error (.reservedField z))
  /-- R82 (a). -/
  | reservedKind {k : BitVec 4} (a : Addr) (d : Byte) (hk : 8 ≤ k.toNat) :
    Decodes addrWidth (packTxn k 0#4 a d) (.error (.reservedKind k))
  /-- R82 (c). -/
  | wideAddress {k : BitVec 4} {a : Addr} (d : Byte) (hk : k = 0x0#4 ∨ k = 0x1#4) (hwide : 2 ^ addrWidth ≤ a.toNat) :
    Decodes addrWidth (packTxn k 0#4 a d) (.error (.wideAddress a))
  /-- R82 (d). -/
  | widePort {k : BitVec 4} {a : Addr} (d : Byte) (hk : k = 0x2#4 ∨ k = 0x3#4) (hwide : 2 ^ 16 ≤ a.toNat) :
    Decodes addrWidth (packTxn k 0#4 a d) (.error (.widePort a))
  /-- MEM_READ. -/
  | memRead {a : Addr} (d : Byte) (hfits : a.toNat < 2 ^ addrWidth) :
    Decodes addrWidth (packTxn 0x0#4 0#4 a d) (.ok (.memRead a))
  /-- MEM_WRITE. -/
  | memWrite {a : Addr} (d : Byte) (hfits : a.toNat < 2 ^ addrWidth) :
    Decodes addrWidth (packTxn 0x1#4 0#4 a d) (.ok (.memWrite a d))
  /-- IO_IN. -/
  | portRead (p : Port) (d : Byte) : Decodes addrWidth (packTxn 0x2#4 0#4 (p.setWidth 32) d) (.ok (decodeIn p))
  /-- IO_OUT. -/
  | portWrite (p : Port) (d : Byte) : Decodes addrWidth (packTxn 0x3#4 0#4 (p.setWidth 32) d) (.ok (decodeOut p d))
  /-- RESET. -/
  | reset (a : Addr) (d : Byte) : Decodes addrWidth (packTxn 0x4#4 0#4 a d) (.ok .reset)
  /-- TRAVERSE. -/
  | traverse (a : Addr) (d : Byte) : Decodes addrWidth (packTxn 0x5#4 0#4 a d) (.ok .traverse)
  /-- INSTALL. -/
  | install (a : Addr) (d : Byte) : Decodes addrWidth (packTxn 0x6#4 0#4 a d) (.ok .install)
  /-- IDENTIFY. -/
  | identify (a : Addr) (d : Byte) : Decodes addrWidth (packTxn 0x7#4 0#4 a d) (.ok .identify)

theorem kind_cases : ∀ k : BitVec 4, k = 0x0#4 ∨ k = 0x1#4 ∨ k = 0x2#4 ∨ k = 0x3#4 ∨ k = 0x4#4 ∨ k = 0x5#4 ∨
    k = 0x6#4 ∨ k = 0x7#4 ∨ 8 ≤ k.toNat := by decide

/-- Field A either is some 16-bit port, or R82 (d) refuses it. -/
theorem port_cases (a : Addr) : (∃ p : Port, a = p.setWidth 32) ∨ 2 ^ 16 ≤ a.toNat := by
  rcases Nat.lt_or_ge a.toNat (2 ^ 16) with hport | hwide
  · refine .inl ⟨a.setWidth 16, BitVec.eq_of_toNat_eq ?_⟩
    rw [BitVec.toNat_setWidth, BitVec.toNat_setWidth]
    omega
  · exact .inr hwide

theorem decodes_packTxn (addrWidth : Nat) (k z : BitVec 4) (a : Addr) (d : Byte) :
    Decodes addrWidth (packTxn k z a d) (decode addrWidth (packTxn k z a d)) := by
  by_cases hz : z = 0#4
  case neg => exact decode_reservedField addrWidth d hz k ▸ .reservedField k a d hz
  subst hz
  rcases kind_cases k with rfl | rfl | rfl | rfl | rfl | rfl | rfl | rfl | hk
  · rw [decode_memRead]
    split_ifs with hfits
    · exact .memRead d hfits
    · exact .wideAddress d (.inl rfl) (Nat.le_of_not_lt hfits)
  · rw [decode_memWrite]
    split_ifs with hfits
    · exact .memWrite d hfits
    · exact .wideAddress d (.inr rfl) (Nat.le_of_not_lt hfits)
  · rcases port_cases a with ⟨p, rfl⟩ | hwide
    · exact decode_portRead addrWidth p d ▸ .portRead p d
    · exact decode_widePort addrWidth d (.inl rfl) hwide ▸ .widePort d (.inl rfl) hwide
  · rcases port_cases a with ⟨p, rfl⟩ | hwide
    · exact decode_portWrite addrWidth p d ▸ .portWrite p d
    · exact decode_widePort addrWidth d (.inr rfl) hwide ▸ .widePort d (.inr rfl) hwide
  · exact decode_reset addrWidth a d ▸ .reset a d
  · exact decode_traverse addrWidth a d ▸ .traverse a d
  · exact decode_install addrWidth a d ▸ .install a d
  · exact decode_identify addrWidth a d ▸ .identify a d
  · exact decode_reservedKind addrWidth d hk ▸ .reservedKind a d hk

theorem decodes_decode (addrWidth : Nat) (t : Txn) : Decodes addrWidth t (decode addrWidth t) :=
  packTxn_fields t ▸ decodes_packTxn addrWidth (kindField t) (zField t) (aField t) (dField t)

/-! ## The fields of a packed word as R82 counts them -/

section FieldNumbers

variable (k z : BitVec 4) (a : Addr) (d : Byte)

theorem packTxn_kind_toNat : (packTxn k z a d).toNat / 2 ^ 44 = k.toNat := by
  have hz := z.isLt; have ha := a.isLt; have hd := d.isLt
  rw [packTxn_toNat]
  omega

theorem packTxn_reserved_toNat : (packTxn k z a d).toNat / 2 ^ 40 % 16 = z.toNat :=
  (field_toNat _ 40 4).symm.trans (congrArg BitVec.toNat (zField_packTxn k z a d))

theorem packTxn_operand_toNat : (packTxn k z a d).toNat / 2 ^ 8 % 2 ^ 32 = a.toNat :=
  (field_toNat _ 8 32).symm.trans (congrArg BitVec.toNat (aField_packTxn k z a d))

/-! ## Masks that fix K and Z (30_encoding.md R85, R86) -/

theorem packTxn_and_fieldMask (a' : Addr) (d' : Byte) :
    packTxn k z a d &&& packTxn 0xF#4 0xF#4 a' d' = packTxn k z (a &&& a') (d &&& d') := by
  rw [packTxn_and, show (0xF#4 : BitVec 4) = BitVec.allOnes 4 from rfl, BitVec.and_allOnes, BitVec.and_allOnes]

theorem packTxn_and_addrMask : packTxn k z a d &&& 0xFFFFFFFFFF00#48 = packTxn k z a 0#8 := by
  rw [show 0xFFFFFFFFFF00#48 = packTxn 0xF#4 0xF#4 (BitVec.allOnes 32) 0#8 by decide, packTxn_and_fieldMask,
    BitVec.and_allOnes, BitVec.and_zero]

theorem packTxn_and_kindMask : packTxn k z a d &&& 0xFF0000000000#48 = packTxn k z 0#32 0#8 := by
  rw [show 0xFF0000000000#48 = packTxn 0xF#4 0xF#4 0#32 0#8 by decide, packTxn_and_fieldMask,
    BitVec.and_zero, BitVec.and_zero]

end FieldNumbers

/-! ## The rows of the opcode table as the fields they fix (30_encoding.md R86) -/

/-- A row that fixes K and Z alone. -/
def kindRow (mnemonic : String) (k : BitVec 4) : TableRow :=
  ⟨mnemonic, packTxn k 0#4 0#32 0#8, packTxn 0xF#4 0xF#4 0#32 0#8⟩

/-- A row that fixes K, Z, the high half of A, and of the port in A's low half the bits of a mask. -/
def portRow (mnemonic : String) (k : BitVec 4) (port mask : Port) : TableRow :=
  ⟨mnemonic, packTxn k 0#4 (port.setWidth 32) 0#8, packTxn 0xF#4 0xF#4 (0xFFFF#16 ++ mask) 0#8⟩

theorem opcodeTable_eq : opcodeTable =
    [kindRow "MEM_READ" 0x0#4, kindRow "MEM_WRITE" 0x1#4,
      portRow "IN_STATUS" 0x2#4 Config.statusPort 0xFFFF#16, portRow "IN_CRTDATA" 0x2#4 0x3B1#16 0xFFF9#16,
      portRow "IN_OTHER" 0x2#4 0#16 0#16,
      portRow "OUT_MODE" 0x3#4 Config.modePort 0xFFFF#16, portRow "OUT_CRTDATA" 0x3#4 0x3B1#16 0xFFF9#16,
      portRow "OUT_CRTADDR" 0x3#4 0#16 1#16, portRow "OUT_ODD" 0x3#4 1#16 1#16,
      kindRow "RESET" 0x4#4, kindRow "TRAVERSE" 0x5#4, kindRow "INSTALL" 0x6#4, kindRow "IDENTIFY" 0x7#4] := by
  decide

@[simp] theorem kindRow_mnemonic (m : String) (k : BitVec 4) : (kindRow m k).mnemonic = m := rfl

@[simp] theorem portRow_mnemonic (m : String) (k : BitVec 4) (port mask : Port) :
    (portRow m k port mask).mnemonic = m := rfl

@[simp] theorem kindRow_takes (m : String) (k k' z : BitVec 4) (a : Addr) (d : Byte) :
    (kindRow m k').takes (packTxn k z a d) = decide (k = k' ∧ z = 0#4) := by
  rw [Bool.eq_iff_iff, decide_eq_true_iff, TableRow.takes, kindRow, packTxn_and_fieldMask, BitVec.and_zero,
    BitVec.and_zero, beq_iff_eq, packTxn_inj]
  simp

/-- A is a port under the mask where its high half is 0 and its low half is. -/
theorem and_portMask_eq_iff (a : Addr) (port mask : Port) :
    a &&& (0xFFFF#16 ++ mask) = port.setWidth 32 ↔ a.toNat < 2 ^ 16 ∧ a.setWidth 16 &&& mask = port := by
  have hhalves : ∀ x : Addr, x = port.setWidth 32 ↔ x.extractLsb' 16 16 = 0#16 ∧ x.setWidth 16 = port := by
    intro x
    have hx := x.isLt
    have hp := port.isLt
    simp only [← BitVec.toNat_inj, BitVec.extractLsb'_toNat, BitVec.toNat_setWidth, Nat.shiftRight_eq_div_pow,
      BitVec.toNat_ofNat]
    omega
  have hhigh : (a &&& (0xFFFF#16 ++ mask)).extractLsb' 16 16 = a.extractLsb' 16 16 := by
    rw [BitVec.extractLsb'_and, BitVec.extractLsb'_append_eq_left]
    exact BitVec.and_allOnes
  have hlow : (a &&& (0xFFFF#16 ++ mask)).setWidth 16 = a.setWidth 16 &&& mask := by
    rw [BitVec.setWidth_and, BitVec.setWidth_append_eq_right]
  have hsmall : a.extractLsb' 16 16 = 0#16 ↔ a.toNat < 2 ^ 16 := by
    have ha := a.isLt
    simp only [← BitVec.toNat_inj, BitVec.extractLsb'_toNat, Nat.shiftRight_eq_div_pow, BitVec.toNat_ofNat]
    omega
  rw [hhalves, hhigh, hlow, hsmall]

theorem portRow_takes (m : String) (k k' z : BitVec 4) (a : Addr) (d : Byte) (port mask : Port) :
    (portRow m k' port mask).takes (packTxn k z a d) =
      decide (k = k' ∧ z = 0#4 ∧ a.toNat < 2 ^ 16 ∧ a.setWidth 16 &&& mask = port) := by
  rw [Bool.eq_iff_iff, decide_eq_true_iff, TableRow.takes, portRow, packTxn_and_fieldMask, BitVec.and_zero, beq_iff_eq,
    packTxn_inj, and_portMask_eq_iff]
  simp

theorem port_toNat_lt (p : Port) : (p.setWidth 32).toNat < 2 ^ 16 := by
  have hp := p.isLt
  rw [BitVec.toNat_setWidth]
  omega

@[simp] theorem portRow_takes_port (m : String) (k k' : BitVec 4) (p : Port) (d : Byte) (port mask : Port) :
    (portRow m k' port mask).takes (packTxn k 0#4 (p.setWidth 32) d) = decide (k = k' ∧ p &&& mask = port) := by
  have hport := port_toNat_lt p
  have hlow : (p.setWidth 32).setWidth 16 = p := by simp
  simp only [portRow_takes, hport, hlow, true_and]

@[simp] theorem port_and_fullMask (p : Port) : p &&& 0xFFFF#16 = p := BitVec.and_allOnes

theorem port_and_bit0Mask_eq_iff (p : Port) :
    (p &&& 1#16 = 0#16 ↔ p.getLsbD 0 = false) ∧ (p &&& 1#16 = 1#16 ↔ p.getLsbD 0 = true) := by
  rw [BitVec.and_one_eq_setWidth_ofBool_getLsbD]
  cases p.getLsbD 0 <;> decide

/-! ## The first row that takes a word -/

theorem firstRow_reservedField (k : BitVec 4) {z : BitVec 4} (a : Addr) (d : Byte) (hz : z ≠ 0#4) :
    firstRow (packTxn k z a d) = none := by
  simp [firstRow, opcodeTable_eq, portRow_takes, hz]

theorem firstRow_reservedKind {k z : BitVec 4} (a : Addr) (d : Byte) (hk : 8 ≤ k.toNat) :
    firstRow (packTxn k z a d) = none := by
  have hne : ∀ k', k'.toNat < 8 → k ≠ k' := by rintro k' hlt rfl; omega
  simp [firstRow, opcodeTable_eq, portRow_takes, hne]

theorem firstRow_widePort {k : BitVec 4} {a : Addr} (d : Byte) (hk : k = 0x2#4 ∨ k = 0x3#4)
    (hwide : 2 ^ 16 ≤ a.toNat) : firstRow (packTxn k 0#4 a d) = none := by
  have hport : ¬ a.toNat < 65536 := by omega
  rcases hk with rfl | rfl <;> simp [firstRow, opcodeTable_eq, portRow_takes, hport]

/-- A row of the table that fixes K alone is the first row of every word of its kind. -/
theorem firstRow_of_kindRow {m : String} {k : BitVec 4} (hrow : kindRow m k ∈ opcodeTable) (a : Addr) (d : Byte) :
    firstRow (packTxn k 0#4 a d) = some (kindRow m k) := by
  have hkinds : (m = "MEM_READ" ∧ k = 0x0#4) ∨ (m = "MEM_WRITE" ∧ k = 0x1#4) ∨ (m = "RESET" ∧ k = 0x4#4) ∨
      (m = "TRAVERSE" ∧ k = 0x5#4) ∨ (m = "INSTALL" ∧ k = 0x6#4) ∨ (m = "IDENTIFY" ∧ k = 0x7#4) := by
    simpa [opcodeTable_eq, kindRow, portRow, packTxn_inj] using hrow
  rcases hkinds with ⟨rfl, rfl⟩ | ⟨rfl, rfl⟩ | ⟨rfl, rfl⟩ | ⟨rfl, rfl⟩ | ⟨rfl, rfl⟩ | ⟨rfl, rfl⟩ <;>
    simp [firstRow, opcodeTable_eq, portRow_takes]

/-- The first row that takes an IO_IN word is the one that R87's tests name. -/
theorem firstRow_portRead (p : Port) (d : Byte) :
    (firstRow (packTxn 0x2#4 0#4 (p.setWidth 32) d)).map TableRow.mnemonic = some (decodeIn p).mnemonic := by
  rw [firstRow, opcodeTable_eq, decodeIn, matchesCrtData]
  by_cases hstatus : p = Config.statusPort
  · simp [hstatus, Instr.mnemonic]
  by_cases hcrt : p &&& 0xFFF9#16 = 0x3B1#16
  · simp [hstatus, hcrt, Instr.mnemonic]
  · simp [hstatus, hcrt, Instr.mnemonic]

/-- The first row that takes an IO_OUT word is the one that R88's tests name. -/
theorem firstRow_portWrite (p : Port) (d : Byte) :
    (firstRow (packTxn 0x3#4 0#4 (p.setWidth 32) d)).map TableRow.mnemonic = some (decodeOut p d).mnemonic := by
  obtain ⟨heven, hodd⟩ := port_and_bit0Mask_eq_iff p
  rw [firstRow, opcodeTable_eq, decodeOut, matchesCrtData]
  by_cases hmode : p = Config.modePort
  · simp [hmode, Instr.mnemonic]
  by_cases hcrt : p &&& 0xFFF9#16 = 0x3B1#16
  · simp [hmode, hcrt, Instr.mnemonic]
  cases hbit : p.getLsbD 0 with
  | false => simp [hmode, hcrt, heven.mpr hbit, Instr.mnemonic]
  | true => simp [hmode, hcrt, hodd.mpr hbit, Instr.mnemonic]

end Sys2Proof

namespace Sys2Proof.Machine

/-! ## The packed forms of capability sets and cursor cells (30_encoding.md R92, R93) -/

/-- The two inverse rules are the only ones that set inverse (R177, R178). -/
theorem decodeAttr_inverse (ch attr mode : Byte) :
    (decodeAttr ch attr mode).2.inverse = (isInverseAttr attr || isInverseBlinkAttr attr) := by
  rw [decodeAttr, applyInverseBlink, applyInverse, applyBlank]
  cases isInverseBlinkAttr attr <;> cases isInverseAttr attr <;> cases isBlankAttr attr <;> rfl

/-- None of their four attributes underlines. -/
theorem decodeAttr_underline_of_inverse {attr : Byte} (h : (isInverseAttr attr || isInverseBlinkAttr attr) = true)
    (ch mode : Byte) : (decodeAttr ch attr mode).2.underline = false := by
  simp only [isInverseAttr, isInverseBlinkAttr, Bool.or_eq_true, beq_iff_eq] at h
  rcases h with (rfl | rfl) | (rfl | rfl) <;> rfl

theorem decodeAttr_underline_and_inverse (ch attr mode : Byte) :
    ((decodeAttr ch attr mode).2.underline && (decodeAttr ch attr mode).2.inverse) = false := by
  cases h : isInverseAttr attr || isInverseBlinkAttr attr with
  | false => rw [decodeAttr_inverse, h, Bool.and_false]
  | true => rw [decodeAttr_underline_of_inverse h, Bool.false_and]

theorem Flags.pack_bits (f : Flags) :
    f.pack.getLsbD 0 = f.underline ∧ f.pack.getLsbD 1 = f.highIntensity ∧ f.pack.getLsbD 2 = f.blink ∧
      f.pack.getLsbD 3 = f.inverse := by
  have hbits : ∀ u h b i : Bool, (Flags.mk u h b i).pack.getLsbD 0 = u ∧ (Flags.mk u h b i).pack.getLsbD 1 = h ∧
      (Flags.mk u h b i).pack.getLsbD 2 = b ∧ (Flags.mk u h b i).pack.getLsbD 3 = i := by decide
  exact hbits ..

theorem Flags.unpack_pack (f : Flags) : Flags.unpack f.pack = f := by
  obtain ⟨hu, hh, hb, hi⟩ := f.pack_bits
  rw [Flags.unpack, hu, hh, hb, hi]

theorem packCursorCell_some_present (c : CellIndex) : (packCursorCell (some c)).getLsbD 11 = true :=
  BitVec.getLsbD_append

theorem packCursorCell_some_index (c : CellIndex) : (packCursorCell (some c)).setWidth 11 = c :=
  BitVec.setWidth_append_eq_right

theorem unpackCursorCell_packCursorCell (c : Option CellIndex) : unpackCursorCell (packCursorCell c) = c := by
  cases c with
  | none => rfl
  | some c => rw [unpackCursorCell, packCursorCell_some_present, if_pos rfl, packCursorCell_some_index]

/-! ## The two bytes of a cursor offset (41_port_io.md R132, R133) -/

theorem highByte_toNat (n : BitVec 16) : (n.extractLsb' 8 8).toNat = n.toNat / 256 := by
  have hn := n.isLt
  rw [BitVec.extractLsb'_toNat, Nat.shiftRight_eq_div_pow]
  omega

theorem lowByte_toNat (n : BitVec 16) : (n.extractLsb' 0 8).toNat = n.toNat % 256 := by
  rw [BitVec.extractLsb'_toNat, Nat.shiftRight_zero]

theorem withCursorHigh_toNat (offset : BitVec 16) (value : Byte) :
    (withCursorHigh offset value).toNat = value.toNat * 256 + offset.toNat % 256 := by
  have hlow : (offset.setWidth 8).toNat < 2 ^ 8 := (offset.setWidth 8).isLt
  rw [withCursorHigh_eq_append, BitVec.toNat_append, ← Nat.shiftLeft_add_eq_or_of_lt hlow, Nat.shiftLeft_eq,
    BitVec.toNat_setWidth]

/-- Both bytes of n, the high one first, replace the whole offset. -/
theorem withCursorLow_withCursorHigh (offset n : BitVec 16) :
    withCursorLow (withCursorHigh offset (n.extractLsb' 8 8)) (n.extractLsb' 0 8) = n := by
  apply BitVec.eq_of_getLsbD_eq
  intro j hj
  rw [withCursorLow_bit, withCursorHigh_bit, BitVec.getLsbD_extractLsb', BitVec.getLsbD_extractLsb']
  by_cases h8 : j < 8
  · simp [h8]
  · simp [h8, show j - 8 < 8 by omega, show 8 + (j - 8) = j by omega]

/-! ## The pseudo-operation `crtw index, value` (30_encoding.md R98) -/

/-- The block after `crtw index, value`: the index port selects the register, the data port writes it.
`runOps_expandCrtWrite` ties it to the two operations. -/
def crtWrite (index value : Byte) (b : VideoAdapterState) : VideoAdapterState :=
  crtDataWrite value { b with globalDirty := true, crtAddressRegister := index }

theorem runOps_expandCrtWrite (index value : Byte) (rest : List Instr) (s : State) :
    runOps (expandCrtWrite index value ++ rest) s =
      runOps rest (respond s (crtWrite index value s.block) .noResult) := rfl

@[simp] theorem crtWrite_crtRegisterFile (index value : Byte) (b : VideoAdapterState) :
    (crtWrite index value b).crtRegisterFile = setCrtEntry b.crtRegisterFile index value :=
  crtDataWrite_crtRegisterFile ..

theorem crtWrite_cursorHigh_cursorOffset (value : Byte) (b : VideoAdapterState) :
    (crtWrite 0x0E#8 value b).cursorOffset = withCursorHigh b.cursorOffset value := rfl

/-- The write of a cursor register marks the cursor's cell before and after it. -/
theorem dirtyAt_crtWrite_of_cursor {index : Byte} (hindex : index ∈ [0x0A#8, 0x0E#8, 0x0F#8]) (value : Byte)
    (b : VideoAdapterState) (c : CellIndex) :
    dirtyAt (crtWrite index value b).dirtyCell c =
      (dirtyAt b.dirtyCell c || (decide (c.toNat = specCursorCell b.cursorOffset) ||
        decide (c.toNat = specCursorCell (crtWrite index value b).cursorOffset))) := by
  have hcell : ∀ b', c = cursorIndex b' ↔ c.toNat = specCursorCell b'.cursorOffset := fun b' => by
    rw [← BitVec.toNat_inj, cursorIndex_toNat, specCursorCell]
  have hmarked := dirtyAt_crtDataWrite value { b with globalDirty := true, crtAddressRegister := index } c
  simp only [decide_eq_true hindex, Bool.true_and, hcell] at hmarked
  exact hmarked

/-! ## The pseudo-operation `setcursor n` (30_encoding.md R98) -/

/-- The block after `setcursor n`: the high byte goes to register 0x0E, then the low byte to 0x0F. `runOps_setCursor` ties
it to the four operations. -/
def setCursorBlock (n : BitVec 16) (b : VideoAdapterState) : VideoAdapterState :=
  crtWrite 0x0F#8 (n.extractLsb' 0 8) (crtWrite 0x0E#8 (n.extractLsb' 8 8) b)

theorem runOps_setCursor (p : Params) (n : BitVec 16) (s : State) :
    runOps (Pseudo.expand p (.setCursor n)) s = .next (respond s (setCursorBlock n s.block) .noResult) :=
  runOps_expandCrtWrite ..

theorem eq_withCursorOffset {b : VideoAdapterState} {offset : BitVec 16} (h : b.cursorOffset = offset) :
    b = { b with cursorOffset := offset } := by
  subst h; rfl

section SetCursor

variable (n : BitVec 16) (b : VideoAdapterState)

@[simp] theorem setCursorBlock_cursorOffset : (setCursorBlock n b).cursorOffset = n :=
  withCursorLow_withCursorHigh b.cursorOffset n

theorem crtEntry_setCursorBlock (i : Byte) :
    (crtEntry (setCursorBlock n b).crtRegisterFile i).toNat =
      if i = 0x0E#8 then n.toNat / 256 else if i = 0x0F#8 then n.toNat % 256
      else (crtEntry b.crtRegisterFile i).toNat := by
  rw [setCursorBlock, crtWrite_crtRegisterFile, crtWrite_crtRegisterFile, crtEntry_setCrtEntry, crtEntry_setCrtEntry]
  by_cases hF : i = 0x0F#8
  · rw [if_pos hF, hF, lowByte_toNat]; rfl
  · rw [if_neg hF, if_neg hF, apply_ite BitVec.toNat, highByte_toNat]

/-- The first write brackets the old cell and the one between, the second that one and n's (R132, R133). -/
theorem dirtyAt_setCursorBlock (c : CellIndex) :
    dirtyAt (setCursorBlock n b).dirtyCell c =
      (dirtyAt b.dirtyCell c || decide (c.toNat = specCursorCell b.cursorOffset) ||
        decide (c.toNat = (n.toNat / 256 * 256 + b.cursorOffset.toNat % 256) % 2048) ||
        decide (c.toNat = specCursorCell n)) := by
  have hbetween : specCursorCell (crtWrite 0x0E#8 (n.extractLsb' 8 8) b).cursorOffset =
      (n.toNat / 256 * 256 + b.cursorOffset.toNat % 256) % 2048 := by
    rw [crtWrite_cursorHigh_cursorOffset, specCursorCell, withCursorHigh_toNat, highByte_toNat]
  have hlast := setCursorBlock_cursorOffset n b
  rw [setCursorBlock] at hlast ⊢
  rw [dirtyAt_crtWrite_of_cursor (by decide), dirtyAt_crtWrite_of_cursor (by decide), hlast, hbetween]
  simp [Bool.or_assoc]

theorem setCursorBlock_frame :
    setCursorBlock n b =
      { b with
        globalDirty := true
        crtAddressRegister := 0x0F#8
        crtRegisterFile := (setCursorBlock n b).crtRegisterFile
        cursorOffset := n
        dirtyCell := (setCursorBlock n b).dirtyCell } :=
  eq_withCursorOffset (setCursorBlock_cursorOffset n b)

end SetCursor

/-! ## The step that refuses (30_encoding.md R82, 20_memory.md R59, 60_exceptions.md R211) -/

theorem step_of_refused {s : State} {q : Request} {rest : List Request} {r : Refusal}
    (hqueue : s.requests = q :: rest) (hrefused : requestedInstr s.params.addrWidth q = .error r) :
    step s = .refused r := by
  have hnext : nextRequest s = some (q, { s with requests := rest }) := by rw [nextRequest, hqueue]
  simp only [step, hnext, hrefused]

theorem requestedInstr_undecodable {addrWidth : Nat} {t : Txn} {e : DecodeError} (h : decode addrWidth t = .error e) :
    requestedInstr addrWidth (.word t) = .error (.undecodable e) := by
  rw [requestedInstr, h]

/-! ## The obligations -/

/-- Settles O42, operation by operation: a well-formed operand is one that its own row decodes. -/
theorem decodeOfEncodeIsTheOperation : Obligations.DecodeOfEncodeIsTheOperation := by
  intro addrWidth i hwf
  cases i with
  | memRead a => exact (decode_memRead addrWidth a 0#8).trans (if_pos (of_decide_eq_true hwf))
  | memWrite a v => exact (decode_memWrite addrWidth a v).trans (if_pos (of_decide_eq_true hwf))
  | inStatus => exact decode_portRead addrWidth Config.statusPort 0#8
  | inCrtData n => rw [encode, decode_portRead, decodeIn_crtDataPort]
  | inOther p =>
    simp only [Instr.wellFormed, Bool.and_eq_true, bne_iff_ne, Bool.not_eq_true'] at hwf
    obtain ⟨hstatus, hcrt⟩ := hwf
    rw [encode, decode_portRead, decodeIn_of_other hstatus hcrt]
  | outMode v => exact decode_portWrite addrWidth Config.modePort v
  | outCrtData n v => rw [encode, decode_portWrite, decodeOut_crtDataPort]
  | outCrtAddr p v =>
    simp only [Instr.wellFormed, Bool.and_eq_true, bne_iff_ne, Bool.not_eq_true'] at hwf
    obtain ⟨heven, hmode⟩ := hwf
    rw [encode, decode_portWrite, decodeOut_of_even hmode heven]
  | outOdd p v =>
    simp only [Instr.wellFormed, Bool.and_eq_true, Bool.not_eq_true'] at hwf
    obtain ⟨hodd, hcrt⟩ := hwf
    rw [encode, decode_portWrite, decodeOut_of_odd hodd hcrt]
  | reset => exact decode_reset addrWidth 0#32 0#8
  | traverse => exact decode_traverse addrWidth 0#32 0#8
  | install => exact decode_install addrWidth 0#32 0#8
  | identify => exact decode_identify addrWidth 0#32 0#8

/-- Settles O40: the four operations leave `setCursorBlock`. -/
theorem setCursorPlacesTheCursor : Obligations.SetCursorPlacesTheCursor := fun s n =>
  ⟨_, runOps_setCursor s.params n s, crtEntry_setCursorBlock n s.block, dirtyAt_setCursorBlock n s.block,
    congrArg (respond s · .noResult) (setCursorBlock_frame n s.block)⟩

/-- Settles O43: the mask keeps the fields that the operation's word takes from the word read. -/
theorem decodedWordsDifferOnlyInIgnoredBits : Obligations.DecodedWordsDifferOnlyInIgnoredBits := by
  intro addrWidth t i hdecode
  have hword := hdecode ▸ decodes_decode addrWidth t
  cases hword with
  | memRead d hfits => exact ⟨decide_eq_true hfits, by simp only [encode, Instr.careMask, packTxn_and_addrMask]⟩
  | memWrite d hfits => exact ⟨decide_eq_true hfits, rfl⟩
  | portRead p d =>
    refine ⟨wellFormed_decodeIn addrWidth p, ?_⟩
    rw [encode_decodeIn, careMask_decodeIn, packTxn_and_addrMask, packTxn_and_addrMask]
  | portWrite p d => exact ⟨wellFormed_decodeOut addrWidth p d, by rw [encode_decodeOut]⟩
  | reset a d => exact ⟨rfl, by simp only [encode, Instr.careMask, packTxn_and_kindMask]⟩
  | traverse a d => exact ⟨rfl, by simp only [encode, Instr.careMask, packTxn_and_kindMask]⟩
  | install a d => exact ⟨rfl, by simp only [encode, Instr.careMask, packTxn_and_kindMask]⟩
  | identify a d => exact ⟨rfl, by simp only [encode, Instr.careMask, packTxn_and_kindMask]⟩

/-- Settles O44: what a word decodes to, beside the first row that takes it. -/
theorem decoderFollowsTheFirstRowOfTheTable : Obligations.DecoderFollowsTheFirstRowOfTheTable := by
  intro addrWidth t
  have hword := decodes_decode addrWidth t
  generalize decode addrWidth t = r at hword
  cases hword with
  | reservedField k a d hz => exact firstRow_reservedField k a d hz
  | reservedKind a d hk => exact firstRow_reservedKind a d hk
  | @wideAddress k a d hk hwide =>
    have hrow : ∃ m, kindRow m k ∈ opcodeTable := by
      rcases hk with rfl | rfl
      · exact ⟨"MEM_READ", by decide⟩
      · exact ⟨"MEM_WRITE", by decide⟩
    obtain ⟨m, hrow⟩ := hrow
    exact congrArg Option.isSome (firstRow_of_kindRow hrow a d)
  | widePort d hk hwide => exact firstRow_widePort d hk hwide
  | @memRead a d hfits => exact congrArg (Option.map TableRow.mnemonic) (firstRow_of_kindRow (by decide) a d)
  | @memWrite a d hfits => exact congrArg (Option.map TableRow.mnemonic) (firstRow_of_kindRow (by decide) a d)
  | portRead p d => exact firstRow_portRead p d
  | portWrite p d => exact firstRow_portWrite p d
  | reset a d => exact congrArg (Option.map TableRow.mnemonic) (firstRow_of_kindRow (by decide) a d)
  | traverse a d => exact congrArg (Option.map TableRow.mnemonic) (firstRow_of_kindRow (by decide) a d)
  | install a d => exact congrArg (Option.map TableRow.mnemonic) (firstRow_of_kindRow (by decide) a d)
  | identify a d => exact congrArg (Option.map TableRow.mnemonic) (firstRow_of_kindRow (by decide) a d)

/-- Settles O45: each refusal is in its own case of R82, and no word that decodes is in any. -/
theorem refusedWordsAreExactlyTheFourCases : Obligations.RefusedWordsAreExactlyTheFourCases := by
  intro addrWidth t
  have hword := decodes_decode addrWidth t
  generalize decode addrWidth t = r at hword
  cases hword <;> rw [packTxn_kind_toNat, packTxn_reserved_toNat, packTxn_operand_toNat]
  case reservedField hz => exact iff_of_true ⟨_, rfl⟩ (.inr (.inl fun h => hz (BitVec.eq_of_toNat_eq h)))
  case reservedKind hk => exact iff_of_true ⟨_, rfl⟩ (.inl hk)
  case wideAddress k a d hk hwide =>
    have hkind : k.toNat < 2 := by rcases hk with rfl | rfl <;> decide
    exact iff_of_true ⟨_, rfl⟩ (.inr (.inr (.inl ⟨hkind, hwide⟩)))
  case widePort k a d hk hwide =>
    have hkind : k.toNat = 2 ∨ k.toNat = 3 := hk.imp (congrArg BitVec.toNat) (congrArg BitVec.toNat)
    exact iff_of_true ⟨_, rfl⟩ (.inr (.inr (.inr ⟨hkind, hwide⟩)))
  case memRead hfits => simpa using hfits
  case memWrite hfits => simpa using hfits
  case portRead p d => simpa using port_toNat_lt p
  case portWrite p d => simpa using port_toNat_lt p
  case reset => simp
  case traverse => simp
  case install => simp
  case identify => simp

/-- Settles O31: the four inverse attributes do not underline; the packed forms are read bit by bit. -/
theorem decodedFlagsAndTheirPackedForm : Obligations.DecodedFlagsAndTheirPackedForm := by
  refine ⟨decodeAttr_underline_and_inverse, fun f => ?_, rfl, fun c => ⟨packCursorCell_some_present c, ?_⟩,
    unpackCursorCell_packCursorCell⟩
  · obtain ⟨hu, hh, hb, hi⟩ := f.pack_bits
    exact ⟨hu, hh, hb, hi, f.unpack_pack⟩
  · rw [← BitVec.toNat_setWidth 11, packCursorCell_some_index]

/-- Settles O48: the first request is one that asks for no operation. -/
theorem stepRefusesWhatTheBlockDoesNotAdmit : Obligations.StepRefusesWhatTheBlockDoesNotAdmit :=
  ⟨fun _ _ _ _ hqueue hdecode => step_of_refused hqueue (requestedInstr_undecodable hdecode),
    fun _ _ _ hqueue => step_of_refused hqueue rfl, fun _ _ _ hqueue => step_of_refused hqueue rfl⟩

end Sys2Proof.Machine
end

section
/-! PROOFS. The obligations of spec/40_framebuffer.md. One rule comes first, the cell that a store marks; the obligations
follow from it and from what the two memory operations answer. -/

namespace Sys2Proof.Machine

/-! ## The cell that a store marks (40_framebuffer.md R111) -/

/-- A store marks the cell of the offset it stores at and leaves every other flag, whatever its value. -/
theorem dirtyAt_storeByte (b : VideoAdapterState) (o : BufferOffset) (value : Byte) (c : CellIndex) :
    dirtyAt (storeByte b o value).dirtyCell c = (dirtyAt b.dirtyCell c || decide (c.toNat = o.toNat / 2)) := by
  have hcell : c = owningCell o ↔ c.toNat = o.toNat / 2 := by rw [← BitVec.toNat_inj, owningCell_toNat]
  rw [storeByte_dirtyCell, dirtyAt_markCell, decide_eq_decide.mpr hcell]

/-! ## The obligations -/

/-- Settles O2: the store's offset is off(addr), and no field but the buffer and the dirty flags is written. -/
theorem memWriteStoresTheByteAndMarksItsCell : Obligations.MemWriteStoresTheByteAndMarksItsCell := by
  intro s addr value
  refine ⟨_, exec_memWrite addr value s, fun o => ?_, fun c => ?_, rfl⟩
  · rw [respond_block, storeByte_buffer, Memory.read_write, bufferOffset_toNat]
  · rw [respond_block, dirtyAt_storeByte, bufferOffset_toNat]

/-- Settles O1: the read is at off(addr). -/
theorem memReadReturnsTheAliasedByte : Obligations.MemReadReturnsTheAliasedByte := by
  intro s addr
  rw [exec_memRead, bufferOffset_toNat]

end Sys2Proof.Machine
end

section
/-! PROOFS. The obligations of spec/41_port_io.md. The rules come first: what each port operation answers, which row a port
word runs, the status toggle and the operations that leave it, the data write into the selected CRT register, and the
traversal that follows a port write. The obligations follow, each assembled from them. -/

namespace Sys2Proof.Machine

/-! ## What each port operation answers (41_port_io.md R121–R136) -/

section PortOperations

variable (port : Port) (value : Byte) (s : State)

theorem exec_inStatus :
    exec .inStatus s =
      .next { s with
        block := { s.block with refreshToggle := s.block.refreshToggle ^^^ statusToggleMask }
        response := .byte (s.block.refreshToggle ^^^ statusToggleMask) } := rfl

theorem exec_inOther : exec (.inOther port) s = .next { s with response := .byte 0x00#8 } := rfl

theorem exec_outMode :
    exec (.outMode value) s =
      .next { s with
        block := { s.block with globalDirty := true, modeControlRegister := value }
        response := .noResult } := rfl

theorem exec_outCrtAddr :
    exec (.outCrtAddr port value) s =
      .next { s with
        block := { s.block with globalDirty := true, crtAddressRegister := value }
        response := .noResult } := rfl

theorem exec_outOdd :
    exec (.outOdd port value) s =
      .next { s with block := { s.block with globalDirty := true }, response := .noResult } := rfl

end PortOperations

/-! ## The words of port accesses and the port numbers (30_encoding.md R87, R88) -/

/-- The word of a port read, whatever its data byte, runs the row that R87 gives its port. -/
theorem step_of_portRead {s : State} {rest : List Request} {port : Port} {d : Byte}
    (hqueue : s.requests = .word (packTxn 0x2#4 0#4 (port.setWidth 32) d) :: rest) :
    step s = exec (decodeIn port) { s with requests := rest } :=
  step_of_requestedInstr hqueue (requestedInstr_word (decode_portRead ..))

/-- The word of a port write runs the row that R88 gives its port. -/
theorem step_of_portWrite {s : State} {rest : List Request} {port : Port} {d : Byte}
    (hqueue : s.requests = .word (packTxn 0x3#4 0#4 (port.setWidth 32) d) :: rest) :
    step s = exec (decodeOut port d) { s with requests := rest } :=
  step_of_requestedInstr hqueue (requestedInstr_word (decode_portWrite ..))

theorem isCrtDataPort_iff_mem (p : Port) :
    isCrtDataPort p = true ↔ p ∈ [0x3B1#16, 0x3B3#16, 0x3B5#16, 0x3B7#16] := by
  simp [isCrtDataPort, or_assoc]

theorem crtDataPort_mem (n : BitVec 2) : crtDataPort n ∈ [0x3B1#16, 0x3B3#16, 0x3B5#16, 0x3B7#16] := by
  obtain ⟨-, -, hcrt⟩ := crtDataPort_spec n
  exact (isCrtDataPort_iff_mem _).mp hcrt

theorem not_mem_of_isCrtDataPort_false {p : Port} (h : isCrtDataPort p = false) :
    p ∉ [0x3B1#16, 0x3B3#16, 0x3B5#16, 0x3B7#16] := fun hmem =>
  Bool.false_ne_true (h.symm.trans ((isCrtDataPort_iff_mem p).mpr hmem))

theorem port_even_iff (p : Port) : p.toNat % 2 = 0 ↔ p.getLsbD 0 = false := by
  have hbit : p.getLsbD 0 = decide (p.toNat % 2 = 1) := Nat.testBit_zero _
  rw [hbit, decide_eq_false_iff_not]
  exact Nat.mod_two_ne_one.symm

/-! ## The status toggle (41_port_io.md R121, R125) -/

theorem statusToggleMask_bit : ∀ j, j < 8 → statusToggleMask.getLsbD j = (j == 0 || j == 3) := by decide

theorem toggled_ne (v : Byte) : v ^^^ statusToggleMask ≠ v := fun h => by
  have hzero : statusToggleMask = 0#8 := (BitVec.xor_right_inj v).mp (h.trans BitVec.xor_zero.symm)
  exact absurd hzero (by decide)

theorem toggled_toggled (v : Byte) : v ^^^ statusToggleMask ^^^ statusToggleMask = v := by
  rw [BitVec.xor_assoc, BitVec.xor_self, BitVec.xor_zero]

theorem exec_inStatus_next {s t : State} (h : exec .inStatus s = .next t) :
    t.block.refreshToggle = s.block.refreshToggle ^^^ statusToggleMask ∧
      t.response = .byte t.block.refreshToggle := by
  cases h
  exact ⟨rfl, rfl⟩

/-- A list of operations that comes to its end has run its first operation and then the others. -/
theorem runOps_cons_next {i : Instr} {is : List Instr} {s t : State} (h : runOps (i :: is) s = .next t) :
    ∃ u, exec i s = .next u ∧ runOps is u = .next t := by
  rw [runOps] at h
  cases hexec : exec i s with
  | next u => rw [hexec] at h; exact ⟨u, rfl, h⟩
  | fault r => rw [hexec] at h; cases h
  | refused r => rw [hexec] at h; cases h

/-- Operations other than status reads, however many, leave refreshToggle (10_state.md R35). -/
theorem runOps_refreshToggle {ops : List Instr} {s t : State} (hops : ∀ i ∈ ops, i ≠ .inStatus)
    (h : runOps ops s = .next t) : t.block.refreshToggle = s.block.refreshToggle := by
  induction ops generalizing s with
  | nil => cases h; rfl
  | cons i ops ih =>
    obtain ⟨hi, hops⟩ := List.forall_mem_cons.mp hops
    obtain ⟨u, hexec, hrest⟩ := runOps_cons_next h
    obtain ⟨hblock, -, -⟩ := exec_next hexec
    have hkeeps := (blockAfter_refreshToggle i s).resolve_right fun ⟨heq, _⟩ => hi heq
    rw [ih hops hrest, hblock, hkeeps]

/-! ## The cursor's cell (41_port_io.md R131) -/

theorem eq_cursorIndex_iff (b : VideoAdapterState) (c : CellIndex) :
    c = cursorIndex b ↔ c.toNat = specCursorCell b.cursorOffset := by
  rw [← BitVec.toNat_inj, cursorIndex_toNat, specCursorCell]

/-! ## The write of the selected CRT register (41_port_io.md R129–R133) -/

/-- Whatever register is selected, a data write reaches four fields at most. -/
theorem crtDataWrite_frame (value : Byte) (b : VideoAdapterState) :
    crtDataWrite value b =
      { b with
        crtRegisterFile := (crtDataWrite value b).crtRegisterFile
        cursorVisible := (crtDataWrite value b).cursorVisible
        cursorOffset := (crtDataWrite value b).cursorOffset
        dirtyCell := (crtDataWrite value b).dirtyCell } := by
  rcases crtDataWrite_cases value b with ⟨-, h⟩ | ⟨-, h⟩ | ⟨-, h⟩ | ⟨-, -, -, h⟩ <;> rw [h] <;> rfl

section SelectedRegister

variable {index : Byte}

/-- A data write while `index` is selected leaves the block as `crtw index, value` does. -/
theorem exec_outCrtData_of_selected {s : State} (hindex : s.block.crtAddressRegister = index) (n : BitVec 2)
    (value : Byte) :
    exec (.outCrtData n value) s = .next (respond s (crtWrite index value s.block) .noResult) := by
  subst hindex
  rfl

theorem crtEntry_crtWrite (value : Byte) (b : VideoAdapterState) (i : Byte) :
    crtEntry (crtWrite index value b).crtRegisterFile i =
      if i = index then value else crtEntry b.crtRegisterFile i := by
  rw [crtWrite_crtRegisterFile, crtEntry_setCrtEntry]

/-- `crtw` through a register that is selected already leaves the index register too. -/
theorem crtWrite_of_selected_frame {b : VideoAdapterState} (hindex : b.crtAddressRegister = index) (value : Byte) :
    crtWrite index value b =
      { b with
        globalDirty := true
        crtRegisterFile := (crtWrite index value b).crtRegisterFile
        cursorVisible := (crtWrite index value b).cursorVisible
        cursorOffset := (crtWrite index value b).cursorOffset
        dirtyCell := (crtWrite index value b).dirtyCell } := by
  subst hindex
  exact crtDataWrite_frame value (setGlobalDirty b)

end SelectedRegister

theorem crtWrite_cursorControl_cursorVisible (value : Byte) (b : VideoAdapterState) :
    (crtWrite 0x0A#8 value b).cursorVisible = value.getLsbD 5 := blinkEnabled_eq_bit value

theorem crtWrite_cursorControl_cursorOffset (value : Byte) (b : VideoAdapterState) :
    (crtWrite 0x0A#8 value b).cursorOffset = b.cursorOffset := rfl

theorem crtWrite_cursorLow_cursorOffset (value : Byte) (b : VideoAdapterState) :
    (crtWrite 0x0F#8 value b).cursorOffset = withCursorLow b.cursorOffset value := rfl

theorem withCursorLow_toNat (offset : BitVec 16) (value : Byte) :
    (withCursorLow offset value).toNat = offset.toNat / 256 * 256 + value.toNat := by
  rw [withCursorLow_eq_append, BitVec.toNat_append, ← Nat.shiftLeft_add_eq_or_of_lt value.isLt, Nat.shiftLeft_eq,
    highByte_toNat]

/-! ## The traversal after a port write (41_port_io.md R127) -/

theorem blockAfter_globalDirty_of_portWrite {i : Instr} (hwrite : i.isPortWrite = true) (s : State) :
    (blockAfter i s).globalDirty = true := by
  cases i with
  | outMode value => rfl
  | outCrtData n value => exact crtDataWrite_globalDirty value (setGlobalDirty s.block)
  | outCrtAddr port value => rfl
  | outOdd port value => rfl
  | _ => cases hwrite

/-- A renderer that accepts every due cell aborts no scan (43_render.md R171). -/
theorem scanBlock_aborted_of_accepts {s : State} (haccepts : acceptsFirst s (dueCells s.block).length) :
    (scanBlock s).aborted = none := by
  rcases scanBlock_spec s with ⟨-, -, haborted, -⟩ | ⟨n, hn, ⟨-, hrefused⟩, -⟩
  · exact haborted
  · exact absurd (haccepts n hn) hrefused

/-! ## The obligations -/

/-- Settles O4: the four ports are aliases, so that the number of the port is not looked at. -/
theorem inCrtDataReturnsTheSelectedEntry : Obligations.InCrtDataReturnsTheSelectedEntry := fun s n =>
  exec_inCrtData n s

/-- Settles O5: the port is not looked at. -/
theorem inOtherReturnsZero : Obligations.InOtherReturnsZero := fun s port => exec_inOther port s

/-- Settles O6: the whole byte is stored. -/
theorem outModeStoresTheModeByte : Obligations.OutModeStoresTheModeByte := fun s value => exec_outMode value s

/-- Settles O7: no port is looked at, 0x3BA no more than another. -/
theorem outCrtAddrSelectsTheRegister : Obligations.OutCrtAddrSelectsTheRegister := fun s port value =>
  exec_outCrtAddr port value s

/-- Settles O8: neither the port nor the value is looked at. -/
theorem outOddOnlySetsGlobalDirty : Obligations.OutOddOnlySetsGlobalDirty := fun s port value =>
  exec_outOdd port value s

/-- Settles O3: the toggle mask has bits 0 and 3 alone. -/
theorem inStatusTogglesAndReturnsTheNewByte : Obligations.InStatusTogglesAndReturnsTheNewByte := by
  refine fun s => ⟨_, exec_inStatus s, fun j hj => ?_, rfl⟩
  rw [BitVec.getLsbD_xor, statusToggleMask_bit j hj]

/-- Settles O15: the marked cell is cursorOffset modulo 2048. -/
theorem markCursorCellMarksTheMaskedCell : Obligations.MarkCursorCellMarksTheMaskedCell := by
  refine fun b => ⟨fun c => ?_, rfl⟩
  rw [markCursorCell_dirtyCell, dirtyAt_markCell, decide_eq_decide.mpr (eq_cursorIndex_iff b c)]

/-- Settles O36, for each of the three port reads. -/
theorem portReadsChangeOnlyRefreshToggle : Obligations.PortReadsChangeOnlyRefreshToggle := by
  intro s i hread
  cases i with
  | inStatus => exact ⟨_, _, exec_inStatus s, rfl, rfl, fun hne => absurd rfl hne⟩
  | inCrtData n => exact ⟨_, _, exec_inCrtData n s, rfl, rfl, fun _ => rfl⟩
  | inOther port => exact ⟨_, _, exec_inOther port s, rfl, rfl, fun _ => rfl⟩
  | _ => cases hread

/-- Settles O10: the write is that of `crtw 0x0A`, which leaves cursorOffset, so that the cell it marks before and after
is one. -/
theorem cursorControlWriteShowsOrHides : Obligations.CursorControlWriteShowsOrHides := by
  intro s n value hindex
  refine ⟨_, exec_outCrtData_of_selected hindex n value, crtEntry_crtWrite value s.block,
    crtWrite_cursorControl_cursorVisible value s.block, fun c => ?_, ?_⟩
  · rw [respond_block, dirtyAt_crtWrite_of_cursor (by decide), crtWrite_cursorControl_cursorOffset, Bool.or_self]
  · exact congrArg (respond s · .noResult) (crtWrite_of_selected_frame hindex value)

/-- Settles O11, by R132's merge as a number. -/
theorem cursorHighWriteBracketsBothCells : Obligations.CursorHighWriteBracketsBothCells := by
  intro s n value hindex
  refine ⟨_, exec_outCrtData_of_selected hindex n value, crtEntry_crtWrite value s.block, ?_, fun c => ?_, ?_⟩
  · rw [respond_block, crtWrite_cursorHigh_cursorOffset, withCursorHigh_toNat]
  · rw [respond_block, dirtyAt_crtWrite_of_cursor (by decide), Bool.or_assoc]
  · exact congrArg (respond s · .noResult) (crtWrite_of_selected_frame hindex value)

/-- Settles O12, by R133's merge as a number. -/
theorem cursorLowWriteBracketsBothCells : Obligations.CursorLowWriteBracketsBothCells := by
  intro s n value hindex
  refine ⟨_, exec_outCrtData_of_selected hindex n value, crtEntry_crtWrite value s.block, ?_, fun c => ?_, ?_⟩
  · rw [respond_block, crtWrite_cursorLow_cursorOffset, withCursorLow_toNat]
  · rw [respond_block, dirtyAt_crtWrite_of_cursor (by decide), Bool.or_assoc]
  · exact congrArg (respond s · .noResult) (crtWrite_of_selected_frame hindex value)

/-- Settles O28: the write sets globalDirty, so that every cell is due, and the scan that no answer aborts clears it. -/
theorem everyPortWriteForcesAFullRedraw : Obligations.EveryPortWriteForcesAFullRedraw := by
  intro s t i hwrite hexec haccepts
  obtain ⟨hblock, -, -⟩ := exec_next hexec
  have hglobal : t.block.globalDirty = true := hblock ▸ blockAfter_globalDirty_of_portWrite hwrite s
  have haborted : (scanBlock t).aborted = none :=
    scanBlock_aborted_of_accepts (by rwa [dueCells_of_globalDirty hglobal, allCells_length])
  have hcleared : (afterTraverse t).globalDirty = false := by rw [afterTraverse_globalDirty, haborted, hglobal]; rfl
  obtain ⟨hcells, -, hclean⟩ := full_delivery_of_globalDirty_fell hglobal hcleared
  refine ⟨_, (scanBlock t).records, rfl, ?_, hcells, hclean⟩
  rw [respond_response, ScanResult.status, haborted]
  rfl

/-- Settles O37: each status read toggles once and nothing between two of them does, and two toggles undo each other. -/
theorem statusReadsAlternate : Obligations.StatusReadsAlternate := by
  intro ops ops' s s1 s2 s3 s4 s5 hops hops' hfirst hbetween hsecond hbetween' hthird
  obtain ⟨-, hresponse1⟩ := exec_inStatus_next hfirst
  obtain ⟨htoggle3, hresponse3⟩ := exec_inStatus_next hsecond
  obtain ⟨htoggle5, hresponse5⟩ := exec_inStatus_next hthird
  rw [runOps_refreshToggle hops hbetween] at htoggle3
  rw [runOps_refreshToggle hops' hbetween', htoggle3, toggled_toggled] at htoggle5
  exact ⟨s1.block.refreshToggle, hresponse1, htoggle3 ▸ hresponse3, toggled_ne _, htoggle5 ▸ hresponse5⟩

/-- Settles O38, row by row of R87. -/
theorem portReadWordsFollowThePortMap : Obligations.PortReadWordsFollowThePortMap := by
  have hnotStatus : ∀ n, crtDataPort n ≠ 0x3BA#16 := by decide
  intro s rest port d hqueue
  rw [step_of_portRead hqueue]
  rcases decodeIn_cases port with ⟨rfl, h⟩ | ⟨n, rfl, h⟩ | ⟨hstatus, hcrt, h⟩
  · rw [h, if_pos (show Config.statusPort = 0x3BA#16 from rfl)]
    exact exec_inStatus _
  · rw [h, if_neg (hnotStatus n), if_pos (crtDataPort_mem n)]
    exact exec_inCrtData n _
  · rw [h, if_neg (show port ≠ 0x3BA#16 from hstatus), if_neg (not_mem_of_isCrtDataPort_false hcrt)]
    exact exec_inOther port _

/-- Settles O39, row by row of R88. -/
theorem portWriteWordsFollowThePortMap : Obligations.PortWriteWordsFollowThePortMap := by
  have hnotMode : ∀ n, crtDataPort n ≠ 0x3B8#16 := by decide
  intro s rest port d hqueue
  rw [step_of_portWrite hqueue]
  rcases decodeOut_cases port d with ⟨rfl, h⟩ | ⟨n, rfl, h⟩ | ⟨hmode, hbit, h⟩ | ⟨hbit, hcrt, h⟩
  · rw [h, if_pos (show Config.modePort = 0x3B8#16 from rfl)]
    exact exec_outMode d _
  · rw [h, if_neg (hnotMode n), if_pos (crtDataPort_mem n)]
    exact exec_outCrtData n d _
  · rw [h, if_neg (show port ≠ 0x3B8#16 from hmode),
      if_neg (not_mem_of_isCrtDataPort_false (isCrtDataPort_of_even hbit)), if_pos ((port_even_iff port).mpr hbit)]
    exact exec_outCrtAddr port d _
  · have hmode : port ≠ 0x3B8#16 := by rintro rfl; exact absurd hbit (by decide)
    have hodd : port.toNat % 2 ≠ 0 := mt (port_even_iff port).mp (by rw [hbit]; decide)
    rw [h, if_neg hmode, if_neg (not_mem_of_isCrtDataPort_false hcrt), if_neg hodd]
    exact exec_outOdd port d _

end Sys2Proof.Machine
end

section
/-! PROOFS. The obligations of spec/42_lifecycle.md. The rules come first: what the three lifecycle operations answer, and
the traversal whose every record is accepted, which leaves no cell due. The obligations follow, each assembled from them. -/

namespace Sys2Proof.Machine

/-! ## What each lifecycle operation answers (42_lifecycle.md R150–R155) -/

section LifecycleOperations

variable (s : State)

theorem exec_reset : exec .reset s = .next (respond s (resetBlock s.block) .noResult) := rfl

theorem exec_install :
    exec .install s = .next { s with response := .registrations s.params.baseAddr 32768 0x3B0#16 16 } := rfl

theorem exec_identify :
    exec .identify s = .next { s with response := .identity Config.deviceName .video } := rfl

end LifecycleOperations

theorem exampleParams_legal : Config.exampleParams.legal := by decide

/-! ## The traversal that the renderer accepts throughout (43_render.md R172–R174) -/

/-- A scan whose due cells are all accepted emits their records and leaves no flag: a delivered cell's is cleared, and a
cell that was not due had none. -/
theorem scanBlock_of_accepts {s : State} (haccepts : acceptsFirst s (dueCells s.block).length) :
    (scanBlock s).records = (dueCells s.block).map (cellRecord s.block) ∧
      ∀ c, dirtyAt (scannedFlags s) c = false := by
  rcases scanBlock_spec s with ⟨-, hrecords, -, hflags⟩ | ⟨n, hn, ⟨-, hrefused⟩, -⟩
  · refine ⟨hrecords, fun c => ?_⟩
    rw [hflags]
    by_cases hdue : c ∈ dueCells s.block
    · rw [List.contains_iff_mem.mpr hdue, Bool.not_true, Bool.and_false]
    · rw [not_dirty_of_not_due hdue, Bool.false_and]
  · exact absurd (haccepts n hn) hrefused

theorem dueCells_of_clean {b : VideoAdapterState} (hglobal : b.globalDirty = false)
    (hclean : ∀ c, dirtyAt b.dirtyCell c = false) : dueCells b = [] :=
  List.filter_eq_nil_iff.mpr fun c _ => by rw [isDue, hglobal, hclean]; decide

/-- TRAVERSE, every due cell accepted: their records with status 0, and no cell is due afterwards. -/
theorem exec_traverse_of_accepts {s : State} (haccepts : acceptsFirst s (dueCells s.block).length) :
    ∃ t, exec .traverse s = .next t ∧
      t.response = .traversal ((dueCells s.block).map (cellRecord s.block)) 0#32 ∧ dueCells t.block = [] := by
  obtain ⟨hrecords, hclean⟩ := scanBlock_of_accepts haccepts
  have haborted := scanBlock_aborted_of_accepts haccepts
  refine ⟨_, rfl, ?_, dueCells_of_clean ?_ hclean⟩
  · rw [respond_response, hrecords, ScanResult.status, haborted]
    rfl
  · rw [respond_block, afterTraverse_globalDirty, haborted, Option.isSome_none, Bool.and_false]

/-! ## The obligations -/

/-- Settles O26: RESET makes every cell due, the first traversal leaves none due, and the second has none to be refused. -/
theorem fullRedrawThenQuiescence : Obligations.FullRedrawThenQuiescence := by
  intro s r hreset haccepts
  obtain ⟨hblock, -, -⟩ := exec_next hreset
  have hall : dueCells r.block = allCells := dueCells_of_globalDirty (hblock ▸ resetBlock_globalDirty s.block)
  obtain ⟨t, hfirst, hfull, hnone⟩ := exec_traverse_of_accepts (s := r) (by rwa [hall, allCells_length])
  obtain ⟨u, hsecond, hquiet, -⟩ :=
    exec_traverse_of_accepts (s := t) (by rw [hnone]; exact fun k hk => absurd hk (Nat.not_lt_zero k))
  rw [hall] at hfull
  rw [hnone, List.map_nil] at hquiet
  refine ⟨t, u, _, hfirst, hfull, ?_, hsecond, hquiet⟩
  rw [List.map_map, ← allCells_toNat]
  rfl

/-- Settles O16: the map RESET leaves is the one that marks every cell. -/
theorem resetHasExactlyFourEffects : Obligations.ResetHasExactlyFourEffects := fun s =>
  ⟨_, exec_reset s, dirtyAt_allDirty, rfl⟩

/-- Settles O17: the two windows' sizes and the first port are fixed constants. -/
theorem installAsksForTheTwoWindows : Obligations.InstallAsksForTheTwoWindows := exec_install

/-- Settles O18: no field of the block is read or written. -/
theorem identifyReturnsNameAndClass : Obligations.IdentifyReturnsNameAndClass := exec_identify

/-- Settles O51: the empty buffer is in canonical form, and the example parameters are legal. -/
theorem resetStateHoldsTheResetValues : Obligations.ResetStateHoldsTheResetValues :=
  ⟨⟨Memory.reset_wf, exampleParams_legal⟩, rfl, rfl, rfl, dirtyAt_allDirty⟩

end Sys2Proof.Machine
end

section
/-! PROOFS. The obligations of spec/43_render.md. The rules come first: what TRAVERSE writes, the two ways its scan ends, the
records it emits, and what decodeAttr gives for the blank attributes and for all others. The obligations follow, each
assembled from them. -/

namespace Sys2Proof.Machine

/-! ## What TRAVERSE writes (43_render.md R165) -/

/-- All that a traversal writes, with everything else framed: the two dirty fields as its scan leaves them, one answer taken
for each record, and the response. -/
theorem exec_traverse (s : State) :
    exec .traverse s =
      .next { s with
        block := { s.block with
          dirtyCell := scannedFlags s
          globalDirty := s.block.globalDirty && (scanBlock s).aborted.isSome }
        answers := s.answers.drop (scanBlock s).records.length
        answersTaken := s.answersTaken + (scanBlock s).records.length
        response := .traversal (scanBlock s).records (scanBlock s).status } := rfl

theorem ScanResult.status_of_completed {x : ScanResult} (h : x.aborted = none) : x.status = 0#32 := by
  rw [ScanResult.status, h, Option.getD_none]

theorem ScanResult.status_of_aborted {x : ScanResult} {a : Status} (h : x.aborted = some a) : x.status = a := by
  rw [ScanResult.status, h, Option.getD_some]

/-! ## The two ways a scan ends (43_render.md R171, R172) -/

/-- The answers say where a scan is aborted, if it is. -/
theorem abortsAt_unique {s : State} {k n : Nat} (hk : abortsAt s k) (hn : abortsAt s n) : k = n := by
  obtain ⟨hkaccepts, hkrefused⟩ := hk
  obtain ⟨hnaccepts, hnrefused⟩ := hn
  rcases Nat.lt_trichotomy k n with hlt | heq | hgt
  · exact absurd (hnaccepts k hlt) hkrefused
  · exact heq
  · exact absurd (hkaccepts n hgt) hnrefused

/-- A scan aborted on the record of due cell k emits that record last, and clears the flags of the due cells before it. -/
theorem scanBlock_of_abortsAt {s : State} {k : Nat} (hk : k < (dueCells s.block).length) (haborts : abortsAt s k) :
    (scanBlock s).records = ((dueCells s.block).take (k + 1)).map (cellRecord s.block) ∧
      (scanBlock s).aborted = some (visitorAnswer s k) ∧
      ∀ c, dirtyAt (scannedFlags s) c =
        (dirtyAt s.block.dirtyCell c && !((dueCells s.block).take k).contains c) := by
  rcases scanBlock_spec s with ⟨haccepts, -⟩ | ⟨n, -, hn, hspec⟩
  · exact absurd (haccepts k hk) haborts.2
  · exact abortsAt_unique hn haborts ▸ hspec

/-- The flag of a cell whose record was accepted is clear after the scan, however the scan ends. -/
theorem dirtyAt_scannedFlags_of_accepted {s : State} {k : Nat} (hk : k < (scanBlock s).records.length)
    (haccepted : visitorAnswer s k = 0#32) :
    dirtyAt (scannedFlags s) (scanBlock s).records[k].cellIndex = false := by
  rcases scanBlock_spec s with ⟨haccepts, -⟩ | ⟨n, -, ⟨-, hrefused⟩, hrecords, -, hflags⟩
  · exact (scanBlock_of_accepts haccepts).2 _
  · have hkn : k ≠ n := by rintro rfl; exact hrefused haccepted
    rw [hrecords, List.length_map, List.length_take] at hk
    have hcell : (scanBlock s).records[k].cellIndex = (dueCells s.block)[k] := by
      simp only [hrecords, List.getElem_map, List.getElem_take]
      rfl
    have hdelivered : (dueCells s.block)[k] ∈ (dueCells s.block).take n :=
      List.mem_take_iff_getElem.mpr ⟨k, by omega, rfl⟩
    rw [hcell, hflags, List.contains_iff_mem.mpr hdelivered, Bool.not_true, Bool.and_false]

/-! ## The due cells and the records of a traversal (43_render.md R166, R169) -/

theorem dueCells_rising (b : VideoAdapterState) : (dueCells b).Pairwise fun c c' => c.toNat < c'.toNat :=
  allCells_rising.filter _

theorem dueCells_nodup (b : VideoAdapterState) : (dueCells b).Nodup := allCells_nodup.filter _

/-- No due cell is among the due cells before it. -/
theorem dueCells_getElem_not_mem_take {b : VideoAdapterState} {k : Nat} (hk : k < (dueCells b).length) :
    (dueCells b)[k] ∉ (dueCells b).take k := fun hmem =>
  List.disjoint_take_drop (dueCells_nodup b) (Nat.le_refl k) hmem
    (List.drop_eq_getElem_cons hk ▸ List.mem_cons_self)

/-- The records of a traversal ascend, since they are those of the first due cells. -/
theorem scanBlock_records_rising (s : State) :
    ((scanBlock s).records.map fun r => r.cellIndex.toNat).Pairwise (· < ·) := by
  obtain ⟨-, m, -, -, hrecords, -⟩ := scanBlock_emits_and_accepts s
  rw [hrecords, List.map_map, List.pairwise_map]
  exact (dueCells_rising s.block).sublist (List.take_sublist m _)

/-- The cursor cell as a number: the low 11 bits of cursorOffset, where the cursor is visible. -/
theorem cursorCell_map_toNat (b : VideoAdapterState) :
    (cursorCell b).map (fun c => c.toNat) =
      if b.cursorVisible then some (specCursorCell b.cursorOffset) else none := by
  rw [cursorCell, specCursorCell, ← cursorIndex_toNat]
  cases b.cursorVisible <;> rfl

/-! ## decodeAttr (43_render.md R175–R179) -/

/-- A mask of one bit tests that bit. -/
theorem and_twoPow_ne_zero {i : Nat} (hi : i < 8) (v : Byte) : (v &&& BitVec.twoPow 8 i != 0#8) = v.getLsbD i := by
  rw [BitVec.and_twoPow]
  cases v.getLsbD i with
  | false => rfl
  | true =>
    have hne : BitVec.twoPow 8 i ≠ 0#8 := fun h => by
      simpa [hi] using congrArg (fun x => x.getLsbD i) h
    rw [if_pos rfl, bne_iff_ne]
    exact hne

theorem low3Bits_eq_one (v : Byte) : (v &&& 0x07#8 == 0x01#8) = decide (v.toNat % 8 = 1) := by
  have hmask : (0x07#8).toNat = 2 ^ 3 - 1 := by decide
  rw [beq_eq_decide, decide_eq_decide, ← BitVec.toNat_inj, BitVec.toNat_and, hmask, Nat.and_two_pow_sub_one_eq_mod]
  rfl

/-- The base rule bit by bit (R175). -/
theorem baseFlags_eq_bits (attr mode : Byte) :
    baseFlags attr mode =
      ⟨decide (attr.toNat % 8 = 1), attr.getLsbD 3, attr.getLsbD 7 && mode.getLsbD 5, false⟩ := by
  have hbit3 : (attr &&& 0x08#8 != 0#8) = attr.getLsbD 3 := and_twoPow_ne_zero (i := 3) (by decide) attr
  have hbit7 : (attr &&& 0x80#8 != 0#8) = attr.getLsbD 7 := and_twoPow_ne_zero (i := 7) (by decide) attr
  rw [baseFlags, low3Bits_eq_one, hbit3, hbit7, blinkEnabled_eq_bit]

theorem isBlankAttr_iff_mem (attr : Byte) : isBlankAttr attr = true ↔ attr ∈ [0x00#8, 0x08#8, 0x80#8, 0x88#8] := by
  simp [isBlankAttr, or_assoc]

theorem inverseAttr_eq_mem (attr : Byte) :
    (isInverseAttr attr || isInverseBlinkAttr attr) = decide (attr ∈ [0x70#8, 0x78#8, 0xF0#8, 0xF8#8]) := by
  rw [Bool.eq_iff_iff]
  simp [isInverseAttr, isInverseBlinkAttr, or_assoc]

/-- The blank attributes are not inverse, so that what R176 leaves stands. -/
theorem decodeAttr_of_blank {attr : Byte} (h : isBlankAttr attr = true) (ch mode : Byte) :
    decodeAttr ch attr mode = (0x20#8, ⟨false, false, false, false⟩) := by
  rw [isBlankAttr_iff_mem] at h
  simp only [List.mem_cons, List.not_mem_nil, or_false] at h
  rcases h with rfl | rfl | rfl | rfl <;> rfl

/-- The attributes of R178 have bit 7 set, so that their blink is already the base rule's. -/
theorem baseFlags_blink_of_inverseBlink {attr : Byte} (h : isInverseBlinkAttr attr = true) (mode : Byte) :
    (baseFlags attr mode).blink = blinkEnabled mode := by
  simp only [isInverseBlinkAttr, Bool.or_eq_true, beq_iff_eq] at h
  rcases h with rfl | rfl <;> rfl

/-- Elsewhere the rules of R177 and R178 add the inverse flag to the base rule, and nothing else. -/
theorem decodeAttr_of_not_blank {attr : Byte} (h : isBlankAttr attr = false) (ch mode : Byte) :
    decodeAttr ch attr mode =
      (ch, { baseFlags attr mode with inverse := isInverseAttr attr || isInverseBlinkAttr attr }) := by
  rw [decodeAttr, applyBlank, h, applyInverseBlink, applyInverse]
  cases hinverseBlink : isInverseBlinkAttr attr with
  | false => cases isInverseAttr attr <;> rfl
  | true => cases isInverseAttr attr <;> simp [baseFlags_blink_of_inverseBlink hinverseBlink]

/-! ## The obligations -/

/-- Settles O19: a completed scan leaves no flag, and its status is 0. -/
theorem acceptedTraversalDeliversExactlyTheDueCells : Obligations.AcceptedTraversalDeliversExactlyTheDueCells := by
  intro s haccepts
  obtain ⟨hrecords, hclean⟩ := scanBlock_of_accepts haccepts
  have hcompleted := scanBlock_aborted_of_accepts haccepts
  refine ⟨_, exec_traverse s, hclean, ?_⟩
  simp [hrecords, hcompleted, ScanResult.status_of_completed hcompleted]

/-- Settles O20: the refused cell is not among the cells delivered before it, so that what made it due still stands. -/
theorem abortedTraversalStopsAtTheRefusedCell : Obligations.AbortedTraversalStopsAtTheRefusedCell := by
  intro s k hk haborts
  obtain ⟨hrecords, haborted, hflags⟩ := scanBlock_of_abortsAt hk haborts
  have hlength : (scanBlock s).records.length = k + 1 := by
    rw [hrecords, List.length_map, List.length_take, Nat.min_eq_left hk]
  have hglobal : (s.block.globalDirty && (scanBlock s).aborted.isSome) = s.block.globalDirty := by
    rw [haborted, Option.isSome_some, Bool.and_true]
  refine ⟨_, exec_traverse s, ?_, hflags, ?_, ?_⟩
  · rw [hrecords, ScanResult.status_of_aborted haborted]
  · have hkept : ((dueCells s.block).take k).contains (dueCells s.block)[k] = false := by
      rw [← Bool.not_eq_true, List.contains_iff_mem]
      exact dueCells_getElem_not_mem_take hk
    have hdue : isDue s.block (dueCells s.block)[k] = true := mem_dueCells.mp (List.getElem_mem hk)
    rw [isDue, hglobal, hflags, hkept, Bool.not_false, Bool.and_true]
    exact hdue
  · rw [hlength, hglobal]

/-- Settles O22: every record is that of its own due cell in the block before the scan, and a traversal marks no cell. -/
theorem everyRecordCarriesTheSameCursorCell : Obligations.EveryRecordCarriesTheSameCursorCell := by
  intro s t records status hexec hresponse
  obtain ⟨hblock, hscan⟩ := exec_traverse_next hexec
  obtain ⟨rfl, -⟩ := Response.traversal.inj (hresponse.symm.trans hscan)
  refine ⟨fun r hr => ?_, fun r hr => ?_, fun c hafter => ?_⟩
  · obtain ⟨-, hrecord⟩ := scanBlock_record hr
    rw [hrecord]
    exact cursorCell_map_toNat s.block
  · obtain ⟨hdue, -⟩ := scanBlock_record hr
    rwa [mem_dueCells, isDue, Bool.or_eq_true] at hdue
  · rw [hblock] at hafter
    exact dirtyAt_of_dirtyAt_scannedFlags hafter

/-- Settles O24: the records are those of the first due cells, and the due cells ascend. -/
theorem recordsAscendAndWereDue : Obligations.RecordsAscendAndWereDue := by
  intro s t records status hexec hresponse
  obtain ⟨-, hscan⟩ := exec_traverse_next hexec
  obtain ⟨rfl, -⟩ := Response.traversal.inj (hresponse.symm.trans hscan)
  exact ⟨scanBlock_records_rising s, fun r hr => mem_dueCells.mp (scanBlock_record hr).1⟩

/-- Settles O25: the scan clears the flag of every accepted record's cell, aborted later or not. -/
theorem acceptedRecordsLeaveTheirCellsClean : Obligations.AcceptedRecordsLeaveTheirCellsClean := by
  intro s t records status k hk hexec hresponse haccepted
  obtain ⟨hblock, hscan⟩ := exec_traverse_next hexec
  obtain ⟨rfl, -⟩ := Response.traversal.inj (hresponse.symm.trans hscan)
  rw [hblock]
  exact dirtyAt_scannedFlags_of_accepted hk haccepted

/-- Settles O30: by R176 for the blank attributes, and for all others by the base rule and the inverse flag. -/
theorem attributeDecoderInClosedForm : Obligations.AttributeDecoderInClosedForm := by
  intro ch attr mode
  cases hblank : isBlankAttr attr with
  | true => rw [decodeAttr_of_blank hblank, if_pos ((isBlankAttr_iff_mem attr).mp hblank)]
  | false =>
    have hother : attr ∉ [0x00#8, 0x08#8, 0x80#8, 0x88#8] := by rw [← isBlankAttr_iff_mem, hblank]; decide
    rw [decodeAttr_of_not_blank hblank, if_neg hother, baseFlags_eq_bits, inverseAttr_eq_mem]

/-- Settles O21: TRAVERSE has a next state on every path, with the frame that `exec_traverse` gives. -/
theorem traverseAlwaysCompletes : Obligations.TraverseAlwaysCompletes := fun s =>
  ⟨_, _, _, exec_traverse s, rfl, rfl⟩

end Sys2Proof.Machine
end

section
/-! PROOFS. The obligations of spec/60_exceptions.md. The rules come first: that no operation ends otherwise than in a next
state, that a step with nothing presented is idle, and what an aborted traversal leaves for the next one. The obligations
follow, each assembled from them. -/

namespace Sys2Proof.Machine

/-! ## How operations and steps end (60_exceptions.md R200, R210) -/

/-- No arm of the dispatch faults or refuses (R200). -/
theorem exec_completes (i : Instr) (s : State) : ∃ t, exec i s = .next t := by
  cases i <;> exact ⟨_, rfl⟩

theorem step_of_requests_nil {s : State} (hidle : s.requests = []) : step s = .next s := by
  have hnext : nextRequest s = none := by rw [nextRequest, hidle]
  simp only [step, hnext]

/-! ## The traversal after an abort (60_exceptions.md R207) -/

/-- What an abort leaves for the next traversal: the refused cell is due, and globalDirty stands as it was (R171). -/
theorem exec_traverse_of_abortsAt {s t : State} {k : Nat} (hk : k < (dueCells s.block).length) (haborts : abortsAt s k)
    (hexec : exec .traverse s = .next t) :
    (dueCells s.block)[k] ∈ dueCells t.block ∧ t.block.globalDirty = s.block.globalDirty := by
  obtain ⟨t', hexec', -, -, hdue, hframe⟩ := abortedTraversalStopsAtTheRefusedCell s k hk haborts
  obtain rfl : t = t' := Host.Outcome.next.inj (hexec.symm.trans hexec')
  exact ⟨mem_dueCells.mpr hdue, congrArg (fun u => u.block.globalDirty) hframe⟩

/-- The records of all due cells, where globalDirty makes every cell due, are one for each cell in index order (R233). -/
theorem dueRecords_toNat_of_globalDirty {b : VideoAdapterState} (hglobal : b.globalDirty = true) :
    ((dueCells b).map (cellRecord b)).map (fun r => r.cellIndex.toNat) = List.range 2048 := by
  rw [dueCells_of_globalDirty hglobal, List.map_map, ← allCells_toNat]
  rfl

/-! ## The obligations -/

/-- Settles O27: the abort leaves the refused cell due and globalDirty as it was, and an accepted traversal delivers every
due cell. -/
theorem refusedCellIsDeliveredAgain : Obligations.RefusedCellIsDeliveredAgain := by
  intro s t k hk haborts hfirst haccepts
  obtain ⟨hdue, hglobal⟩ := exec_traverse_of_abortsAt hk haborts hfirst
  obtain ⟨u, hsecond, hresponse, -⟩ := exec_traverse_of_accepts haccepts
  refine ⟨u, _, _, hsecond, hresponse, ⟨_, List.mem_map_of_mem hdue, rfl⟩, fun hfull => ?_⟩
  exact dueRecords_toNat_of_globalDirty (hglobal.trans hfull)

/-- Settles O49: the queue is empty, so that the step takes no request. -/
theorem idleStepChangesNothing : Obligations.IdleStepChangesNothing := fun _ => step_of_requests_nil

/-- Settles O50: the frame is that of every operation's next state, and `Fault` has no constructor. -/
theorem everyOperationCompletes : Obligations.EveryOperationCompletes := by
  refine ⟨fun i s => ?_, nofun⟩
  obtain ⟨t, hexec⟩ := exec_completes i s
  obtain ⟨-, hparams, hrequests⟩ := exec_next hexec
  exact ⟨t, hexec, hparams, hrequests⟩

end Sys2Proof.Machine
end

section
/-! PROOFS. The obligation of spec/70_reset_and_hazards.md. The rules come first: how a list of operations runs when its
first one answers, and what the pseudo-operation `crtr` reads back and leaves. The obligation follows, assembled from
them. -/

namespace Sys2Proof.Machine

/-! ## Running a list of operations (20_memory.md R63) -/

theorem runOps_cons_of_next {i : Instr} {s t : State} (hexec : exec i s = .next t) (is : List Instr) :
    runOps (i :: is) s = runOps is t := by
  rw [runOps, hexec]

/-! ## The pseudo-operation `crtr index` (30_encoding.md R98) -/

/-- The index port selects the register, the data port reads it: only globalDirty and the selection change. -/
theorem runOps_crtr (p : Params) (index : Byte) (s : State) :
    runOps (Pseudo.expand p (.crtr index)) s =
      .next (respond s { setGlobalDirty s.block with crtAddressRegister := index }
        (.byte (crtEntry s.block.crtRegisterFile index))) := by
  rw [Pseudo.expand, runOps_cons_of_next (exec_outCrtAddr ..), runOps_cons_of_next (exec_inCrtData ..), runOps]
  rfl

/-! ## The obligation -/

/-- Settles O41: `crtr` reads the register file, which RESET keeps, and keeps the cursor state, which RESET sets. -/
theorem readbackAfterResetIsTheOldEntry : Obligations.ReadbackAfterResetIsTheOldEntry := by
  intro s i
  refine ⟨_, (runOps_cons_of_next (exec_reset s) _).trans (runOps_crtr s.params i _), ?_, ?_, ?_⟩
  · rw [respond_response, respond_block, resetBlock_crtRegisterFile]
  · exact resetBlock_cursorOffset s.block
  · exact resetBlock_cursorVisible s.block

end Sys2Proof.Machine
end

section
/-! PROOFS. The obligation of spec/95_test_vectors.md. Each word is the packing of four fields, on which the decoder's rule
for its kind says what it reads. -/

namespace Sys2Proof.Machine

/-! ## The obligation -/

/-- Settles O46: the rule of each word's kind, on the fields that the word spells out. -/
theorem specWordsDecodeToTheirOperations : Obligations.SpecWordsDecodeToTheirOperations := by
  refine ⟨?memWrite, ?memRead, ?inCrtData, ?outCrtData, ?outCrtAddr, ?reset, ?traverse, ?identify, ?wideAddress⟩
  case memWrite => exact (decode_memWrite 20 0xB7FFF#32 0x5A#8).trans (if_pos (by decide))
  case memRead => exact (decode_memRead 20 0xFFFFF#32 0#8).trans (if_pos (by decide))
  case inCrtData => exact (decode_portRead 20 (crtDataPort 1#2) 0#8).trans (congrArg _ (decodeIn_crtDataPort 1#2))
  case outCrtData =>
    exact (decode_portWrite 20 (crtDataPort 3#2) 0xFF#8).trans (congrArg _ (decodeOut_crtDataPort 3#2 0xFF#8))
  case outCrtAddr =>
    have heven : decodeOut 0x3BA#16 0x0E#8 = .outCrtAddr 0x3BA#16 0x0E#8 := decodeOut_of_even (by decide) rfl _
    exact (decode_portWrite 20 0x3BA#16 0x0E#8).trans (congrArg _ heven)
  case reset => exact decode_reset 20 0#32 0xFF#8
  case traverse => exact decode_traverse 20 0x1234#32 0#8
  case identify => exact decode_identify 20 0xFFFFFFFF#32 0xFF#8
  case wideAddress => exact (decode_memRead 20 0x100000#32 0#8).trans (if_neg (by decide))

end Sys2Proof.Machine
end
